-- ==== Sys2Proof/Word.lean ====
section
/-! DEFINITION. The word types of the block and their plainest arithmetic (00_scope.md R11). -/

namespace Sys2Proof

/-- A register or command word: 32 bits (R11: "Every register is 32 bits wide unless stated"). -/
abbrev Word := BitVec 32

/-- One payload byte (R37). -/
abbrev Byte := BitVec 8

end Sys2Proof
end

