-- ==== Sys2Proof/Syntax.lean ====
section
/-! DEFINITION. The commands of spec/opcode_table.json, one constructor per row, and the data that commands work on:
the instance (R3), the Message (R37) and the argument ports (R81). -/

namespace Sys2Proof

/-- A controller instance. `can1` is index 1 (command word bit 4 = 0), `can2` is index 2 (R3, R80, R185). -/
inductive Inst where
  | can1
  | can2
  deriving DecidableEq, Repr

/-- The instance that a command does not address (R42). -/
def Inst.other : Inst → Inst
  | .can1 => .can2
  | .can2 => .can1

/-- Identifier format (R14). -/
inductive Format where
  | standard
  | extended
  deriving DecidableEq, Repr

/-- Frame type (R14). -/
inductive FrameType where
  | data
  | remote
  deriving DecidableEq, Repr

/-- The source's test modes (R39, R108). -/
inductive TestMode where
  | normal
  | loopbackOnly
  | silentOnly
  | silentLoopback
  deriving DecidableEq, Repr

/-- A Message (R37): the identifier in a 29-bit container, the length in a 4-bit one. -/
structure Message where
  identifier : BitVec 29
  identifierFormat : Format
  frameType : FrameType
  length : BitVec 4
  payload : Vector Byte 8
  deriving DecidableEq, Repr

/-- The argument ports (R81, widths by R10). -/
structure Ports where
  argClock : BitVec 32
  argRate : BitVec 32
  argId : BitVec 29
  argFmt : BitVec 1
  argMode : BitVec 2
  argMsg : Message
  deriving DecidableEq, Repr

/-- The seven commands (R82). The instance is the one operand in the command word (R80); the others travel on ports. -/
inductive Instr where
  /-- `BT_PROGRAM canN` (R104). -/
  | btProgram (i : Inst)
  /-- `SET_TEST_MODE canN` (R109). -/
  | setTestMode (i : Inst)
  /-- `FLT_INSTALL canN` (R124). -/
  | fltInstall (i : Inst)
  /-- `TX_LOAD canN` (R146). -/
  | txLoad (i : Inst)
  /-- `TX_REQUEST canN` (R150). -/
  | txRequest (i : Inst)
  /-- `RX_DECODE canN` (R155). -/
  | rxDecode (i : Inst)
  /-- `RX_RELEASE canN` (R159). -/
  | rxRelease (i : Inst)
  deriving DecidableEq, Repr

/-- The instance a command addresses (R80 bit 4). -/
def Instr.inst : Instr → Inst
  | .btProgram i | .setTestMode i | .fltInstall i | .txLoad i | .txRequest i | .rxDecode i | .rxRelease i => i

/-- The two commands of the receive-handler context (R62, R180); the other five are the application's. -/
def Instr.isReceive : Instr → Bool
  | .rxDecode _ | .rxRelease _ => true
  | .btProgram _ | .setTestMode _ | .fltInstall _ | .txLoad _ | .txRequest _ => false

end Sys2Proof
end

