-- ==== Sys2Proof/WellFormed.lean ====
section
/-! DEFINITION. Well-formedness of syntax: of a command, and of a Message (`valid`, R37). The checks on a configuration
(R52, R121) stand in Machine/Configuration.lean. -/

namespace Sys2Proof

/-- Every value of `Instr` is a command of R82: the instance is its one operand and both its values are admitted (R80, R83).
There is nothing to check. -/
def Instr.wellFormed : Instr → Bool
  | .btProgram _ | .setTestMode _ | .fltInstall _ | .txLoad _ | .txRequest _ | .rxDecode _ | .rxRelease _ => true

/-- "`identifier` fits the bit width implied by `identifierFormat`" (R37). -/
def Message.identifierFits (m : Message) : Bool :=
  match m.identifierFormat with
  | .standard => m.identifier.toNat < 2 ^ 11
  | .extended => m.identifier.toNat < 2 ^ 29

/-- "`length` ≤ 8" (R37). -/
def Message.lengthFits (m : Message) : Bool :=
  m.length.toNat ≤ 8

/-- `valid(m)` of R37: both parts of the source's invariant. -/
def Message.valid (m : Message) : Bool :=
  m.identifierFits && m.lengthFits

/-- Two Messages are equivalent (R37): the first four fields are equal and so are the payload bytes below `length`. -/
def Message.Equivalent (m n : Message) : Prop :=
  m.identifier = n.identifier ∧ m.identifierFormat = n.identifierFormat ∧ m.frameType = n.frameType ∧
    m.length = n.length ∧ ∀ (k : Nat) (h : k < 8), k < m.length.toNat → m.payload[k] = n.payload[k]

end Sys2Proof
end

