-- ==== Sys2Proof/Decode.lean ====
section
/-! DEFINITION. Decoding a command word (R80, R82, R83, R84), total on every 32-bit word and rejecting by name, and the
encoder written from the same table. A command word is not held in memory: it is presented whole on the command port
(R63), so there is no byte order to settle. -/

namespace Sys2Proof

/-- Why a word is illegal (R84), with the instance that bit 4 gives. -/
inductive Illegal where
  /-- One of bits 31:5 is 1. -/
  | reservedBits (i : Inst)
  /-- The opcode is 0x0 or 0x8 to 0xF. -/
  | reservedOpcode (i : Inst)
  deriving DecidableEq, Repr

/-- The instance whose status an illegal word writes (R84). -/
def Illegal.inst : Illegal → Inst
  | .reservedBits i | .reservedOpcode i => i

/-- Bit 4, `inst` (R80). -/
def instField (c : Word) : Inst :=
  if c.extractLsb' 4 1 = 0#1 then .can1 else .can2

/-- `decode(c)` of R83. -/
def decode (c : Word) : Except Illegal Instr :=
  if c.extractLsb' 5 27 ≠ 0#27 then .error (.reservedBits (instField c))
  else if c.extractLsb' 0 4 = 0x1#4 then .ok (.btProgram (instField c))
  else if c.extractLsb' 0 4 = 0x2#4 then .ok (.setTestMode (instField c))
  else if c.extractLsb' 0 4 = 0x3#4 then .ok (.fltInstall (instField c))
  else if c.extractLsb' 0 4 = 0x4#4 then .ok (.txLoad (instField c))
  else if c.extractLsb' 0 4 = 0x5#4 then .ok (.txRequest (instField c))
  else if c.extractLsb' 0 4 = 0x6#4 then .ok (.rxDecode (instField c))
  else if c.extractLsb' 0 4 = 0x7#4 then .ok (.rxRelease (instField c))
  else .error (.reservedOpcode (instField c))

/-- The opcode of a command (R82). -/
def Instr.opcode : Instr → BitVec 4
  | .btProgram _ => 0x1#4
  | .setTestMode _ => 0x2#4
  | .fltInstall _ => 0x3#4
  | .txLoad _ => 0x4#4
  | .txRequest _ => 0x5#4
  | .rxDecode _ => 0x6#4
  | .rxRelease _ => 0x7#4

/-- The value of `inst`, bit 4 (R80). -/
def Inst.code : Inst → BitVec 1
  | .can1 => 0#1
  | .can2 => 1#1

/-- `op | (inst << 4)` (R82). -/
def encode (i : Instr) : Word :=
  i.opcode.setWidth 32 ||| (i.inst.code.setWidth 32 <<< 4)

/-- The command that the decoder reads from a word of `nbits` bits numbered as the opcode table numbers them; bits above
`nbits` are 0. -/
def decodeTableWord (nbits w : Nat) : Option Instr :=
  match decode (BitVec.ofNat 32 (w % 2 ^ nbits)) with
  | .ok i => some i
  | .error _ => none

end Sys2Proof
end

