-- ==== Sys2Proof/Config.lean ====
section
/-! DEFINITION. What is fixed for one block: the constants of R7 to R9 and the parameters of R9, with the spec's defaults.
The values the spec marks as general knowledge are PRESUMED (log 17); the two OPEN parameters have no constant (log 16). -/

namespace Sys2Proof

/-- `TSEG1_TQ`, in time quanta (R7). -/
def Config.tseg1Tq : Nat := 4
/-- `TSEG2_TQ`, in time quanta (R7). -/
def Config.tseg2Tq : Nat := 2
/-- `SJW_TQ`, in time quanta (R7; D5). -/
def Config.sjwTq : Nat := 3
/-- `TQ_PER_BIT` (R7). -/
def Config.tqPerBit : Nat := 7
/-- `PRESCALER_MAX` (R9; D6). -/
def Config.prescalerMax : Nat := 1024
/-- `FILTERS_PER_INSTANCE` (R8). -/
def Config.filtersPerInstance : Nat := 14
/-- `N_BANKS` (R9; D15). -/
def Config.nBanks : Nat := 28
/-- `BTR_RESET` (R9, R29). -/
def Config.btrReset : Word := 0x01230000#32
/-- `FMR_RESET` (R9, R33). -/
def Config.fmrReset : Word := 0x2A1C0E01#32

/-- `SJW_FIELD_MODE` (R9; D5): whether the SJW field holds quanta minus one or the literal. -/
inductive SjwFieldMode where
  | quanta
  | literal
  deriving DecidableEq, Repr

/-- The address map (R58; D21, D28), every entry a parameter with the spec's default. -/
structure AddressMap where
  canBase1 : Word := 0x40006400#32
  canBase2 : Word := 0x40006800#32
  filterBase : Word := canBase1
  mcr : Word := 0x000#32
  msr : Word := 0x004#32
  tsr : Word := 0x008#32
  rf0r : Word := 0x00C#32
  ier : Word := 0x014#32
  btr : Word := 0x01C#32
  ti0r : Word := 0x180#32
  tdt0r : Word := 0x184#32
  tdl0r : Word := 0x188#32
  tdh0r : Word := 0x18C#32
  ri0r : Word := 0x1B0#32
  rdt0r : Word := 0x1B4#32
  rdl0r : Word := 0x1B8#32
  rdh0r : Word := 0x1BC#32
  fmr : Word := 0x200#32
  fm1r : Word := 0x204#32
  fs1r : Word := 0x20C#32
  ffa1r : Word := 0x214#32
  fa1r : Word := 0x21C#32
  fkR1 : Word := 0x240#32
  fkR2 : Word := 0x244#32
  bankStride : Word := 8#32
  deriving DecidableEq, Repr

/-- The parameters a model takes (R9). No command changes one. -/
structure Params where
  strictBitTiming : Bool := false
  sjwFieldMode : SjwFieldMode := .quanta
  bankBase1 : Nat := 0
  bankBase2 : Nat := 14
  map : AddressMap := {}
  deriving DecidableEq, Repr

/-- `BANK_BASE(i)` (R9, R120). -/
def Params.bankBase (p : Params) : Inst → Nat
  | .can1 => p.bankBase1
  | .can2 => p.bankBase2

/-- `CAN_BASE(i)` (R57, R58). -/
def AddressMap.canBase (m : AddressMap) : Inst → Word
  | .can1 => m.canBase1
  | .can2 => m.canBase2

end Sys2Proof
end

