-- ==== Sys2Proof/Machine/Registers.lean ====
section
/-! DEFINITION. The names of the registers the block reaches and the address of each (R56 to R58).
The default addresses are PRESUMED (log 17). -/

namespace Sys2Proof.Machine

/-- The registers of one instance's block that the block reads or writes (R58). -/
inductive CanReg where
  | rf0r | btr | ti0r | tdt0r | tdl0r | tdh0r | ri0r | rdt0r | rdl0r | rdh0r
  deriving DecidableEq, Repr

/-- The registers of the shared filter unit (R33 to R35); `r1 k` is FkR1, `r2 k` is FkR2. -/
inductive FilterReg where
  | fmr | fm1r | fs1r | ffa1r | fa1r
  | r1 (k : Fin 28)
  | r2 (k : Fin 28)
  deriving DecidableEq, Repr

/-- A register by name: with an instance, or of the filter unit without one (R12, R57). -/
inductive Reg where
  | can (i : Inst) (r : CanReg)
  | flt (r : FilterReg)
  deriving DecidableEq, Repr

/-- Offset of an instance register (R58). -/
def canOffset (m : AddressMap) : CanReg → Word
  | .rf0r => m.rf0r
  | .btr => m.btr
  | .ti0r => m.ti0r
  | .tdt0r => m.tdt0r
  | .tdl0r => m.tdl0r
  | .tdh0r => m.tdh0r
  | .ri0r => m.ri0r
  | .rdt0r => m.rdt0r
  | .rdl0r => m.rdl0r
  | .rdh0r => m.rdh0r

/-- Offset of a filter-unit register (R58): FkR1 at 0x240 + 8k and FkR2 at 0x244 + 8k by default. -/
def filterOffset (m : AddressMap) : FilterReg → Word
  | .fmr => m.fmr
  | .fm1r => m.fm1r
  | .fs1r => m.fs1r
  | .ffa1r => m.ffa1r
  | .fa1r => m.fa1r
  | .r1 k => m.fkR1 + m.bankStride * BitVec.ofNat 32 k.val
  | .r2 k => m.fkR2 + m.bankStride * BitVec.ofNat 32 k.val

/-- `regAddr` (R58). -/
def regAddr (m : AddressMap) : Reg → Word
  | .can i r => m.canBase i + canOffset m r
  | .flt r => m.filterBase + filterOffset m r

/-- All ten instance registers. -/
def canRegs : List CanReg :=
  [.rf0r, .btr, .ti0r, .tdt0r, .tdl0r, .tdh0r, .ri0r, .rdt0r, .rdl0r, .rdh0r]

/-- Every register the block reaches (R56). -/
def allRegs : List Reg :=
  canRegs.map (.can .can1) ++ canRegs.map (.can .can2) ++
    [.flt .fmr, .flt .fm1r, .flt .fs1r, .flt .ffa1r, .flt .fa1r] ++
    (List.finRange 28).map (fun k => .flt (.r1 k)) ++ (List.finRange 28).map (fun k => .flt (.r2 k))

/-- The addresses of the map's registers that the block never reaches: MCR, MSR, TSR and IER of each instance (R58). -/
def foreignAddrs (m : AddressMap) : List Word :=
  [Inst.can1, Inst.can2].flatMap fun i => [m.mcr, m.msr, m.tsr, m.ier].map (m.canBase i + ·)

end Sys2Proof.Machine
end

