-- ==== Sys2Proof/Machine/Configuration.lean ====
section
/-! DEFINITION. The two checks on a configuration that a model makes before any command runs (R52, R121). -/

namespace Sys2Proof.Machine

/-- Every address of the map is a multiple of 4 (R52; D21). -/
def mapAligned (m : AddressMap) : Bool :=
  (allRegs.map (regAddr m) ++ foreignAddrs m).all fun a => a.toNat % 4 == 0

/-- The two ranges `BANK_BASE(i) .. BANK_BASE(i)+13` do not overlap (R121, first condition). -/
def banksDisjoint (p : Params) : Bool :=
  p.bankBase1 + 13 < p.bankBase2 || p.bankBase2 + 13 < p.bankBase1

/-- Neither range leaves `0 .. N_BANKS − 1` (R121, second condition). -/
def banksInRange (p : Params) : Bool :=
  p.bankBase1 + 13 < Config.nBanks && p.bankBase2 + 13 < Config.nBanks

/-- The configuration is admitted; any other is refused (R52, R121). -/
def configurationOk (p : Params) : Bool :=
  banksDisjoint p && banksInRange p && mapAligned p.map

end Sys2Proof.Machine
end

