-- ==== Sys2Proof/Machine/Flags.lean ====
section
/-! DEFINITION. The status codes (60_exceptions.md R170) and the flag computations over them (R172). -/

namespace Sys2Proof.Machine

/-- The names of R170. -/
inductive StatusCode where
  | ok
  | okInexact
  | noopSaturated
  | btRateZero
  | btPrescalerZero
  | btPrescalerRange
  | btInexact
  | msgInvalidId
  | msgInvalidLength
  | fltInvalidId
  | rxEmpty
  | rxDlcRange
  | illegalCommand
  deriving DecidableEq, Repr

/-- The code column of R170. -/
def StatusCode.code : StatusCode → BitVec 8
  | .ok => 0x00#8
  | .okInexact => 0x01#8
  | .noopSaturated => 0x02#8
  | .btRateZero => 0x10#8
  | .btPrescalerZero => 0x11#8
  | .btPrescalerRange => 0x12#8
  | .btInexact => 0x13#8
  | .msgInvalidId => 0x20#8
  | .msgInvalidLength => 0x21#8
  | .fltInvalidId => 0x22#8
  | .rxEmpty => 0x30#8
  | .rxDlcRange => 0x31#8
  | .illegalCommand => 0x3F#8

/-- The "fault?" column of R170; OK, OK_INEXACT and NOOP_SATURATED are not faults (R172). -/
def StatusCode.isFault : StatusCode → Bool
  | .ok | .okInexact | .noopSaturated => false
  | .btRateZero | .btPrescalerZero | .btPrescalerRange | .btInexact | .msgInvalidId | .msgInvalidLength
  | .fltInvalidId | .rxEmpty | .rxDlcRange | .illegalCommand => true

/-- Every code of R170. -/
def StatusCode.all : List StatusCode :=
  [.ok, .okInexact, .noopSaturated, .btRateZero, .btPrescalerZero, .btPrescalerRange, .btInexact, .msgInvalidId,
    .msgInvalidLength, .fltInvalidId, .rxEmpty, .rxDlcRange, .illegalCommand]

/-- The value is a code of R170 ("No other value is ever written"). -/
def isStatusCode (b : BitVec 8) : Bool :=
  StatusCode.all.any fun c => c.code == b

/-- The value is the code of a fault (R170). -/
def isFaultCode (b : BitVec 8) : Bool :=
  StatusCode.all.any fun c => c.isFault && c.code == b

/-- The status a successful `BT_PROGRAM` reports (R104). -/
def bitTimingStatus (inexact : Bool) : StatusCode :=
  if inexact then .okInexact else .ok

end Sys2Proof.Machine
end

