-- ==== Sys2Proof/Machine/State.lean ====
section
/-! DEFINITION. The state of the block (10_state.md), the events the outside presents, the reasons a step can stop, and
the state right after reset (70_reset_and_hazards.md R200, R201). -/

namespace Sys2Proof.Machine

/-- The model fault reasons (R177). -/
inductive ModelFault where
  /-- `MF_TX_BUSY` (R209). -/
  | txBusy
  /-- `MF_TX_NOT_LOADED` (R210). -/
  | txNotLoaded
  deriving DecidableEq, Repr

/-- The state that exists once per instance (R3): block-internal state (R22 to R27), the peripheral input of R38 and the
register images (R29 to R32, R36). -/
structure Controller where
  filterCount : Nat
  status : BitVec 8
  faultLatch : Bool
  txLoaded : Bool
  rxHeld : Bool
  /-- `none` is the spec's "unwritten" (R27). -/
  pendingRx : Option Message
  /-- Mailbox 0 is free: an input from the peripheral (R38). -/
  mb0Empty : Bool
  btr : Word
  ti0r : Word
  tdt0r : Word
  tdl0r : Word
  tdh0r : Word
  ri0r : Word
  rdt0r : Word
  rdl0r : Word
  rdh0r : Word
  rf0r : Word
  deriving DecidableEq, Repr

/-- One filter bank (R35). -/
structure Bank where
  r1 : Word
  r2 : Word
  deriving DecidableEq, Repr

/-- The shared filter unit (R33 to R35). -/
structure FilterUnit where
  fmr : Word
  fm1r : Word
  fs1r : Word
  ffa1r : Word
  fa1r : Word
  banks : Vector Bank 28
  deriving DecidableEq, Repr

/-- One register access as the peripheral sees it (R12, R53, R60): a whole word at an address. -/
inductive Access where
  | read (addr value : Word)
  | write (addr value : Word)
  deriving DecidableEq, Repr

/-- The values the peripheral shows on its own bits of one instance (R38, R55). -/
structure PeripheralInputs where
  mb0Empty : Bool
  txrq : Bool
  fmp0 : BitVec 2
  full0 : Bool
  fovr0 : Bool
  rfom0 : Bool
  ri0r : Word
  rdt0r : Word
  rdl0r : Word
  rdh0r : Word
  deriving DecidableEq, Repr

/-- The values of one instance for which the spec names no reset value (R30 bits 31:1, R31, R32, R38). -/
structure ControllerUnspecified where
  ti0rHigh : BitVec 31
  tdt0r : Word
  tdl0r : Word
  tdh0r : Word
  ri0r : Word
  rdt0r : Word
  rdl0r : Word
  rdh0r : Word
  mb0Empty : Bool
  deriving DecidableEq, Repr

/-- All unspecified reset values: free values that each reset takes from outside (R203). -/
structure Unspecified where
  can1 : ControllerUnspecified
  can2 : ControllerUnspecified
  banks : Vector Bank 28
  deriving DecidableEq, Repr

/-- What software can read (R186), and a word of the address map (R58). -/
inductive Observable where
  | filterCount (i : Inst)
  | status (i : Inst)
  | faultLatch (i : Inst)
  | pendingRx (i : Inst)
  | image (r : Reg)
  | word (addr : Word)
  deriving DecidableEq, Repr

/-- The value of an observation. -/
inductive Observed where
  | count (n : Nat)
  | byte (b : BitVec 8)
  | flag (b : Bool)
  | message (m : Message)
  | word (w : Word)
  deriving DecidableEq, Repr

/-- What the outside can do, each between two commands (R62, R200). -/
inductive Event where
  /-- Present a command word (R80, R63). -/
  | command (word : Word)
  /-- Drive the argument ports (R81). -/
  | drivePorts (p : Ports)
  /-- The peripheral of one instance changes its own bits (R38, R55). -/
  | peripheral (i : Inst) (p : PeripheralInputs)
  /-- The reset signal (R200). -/
  | reset (u : Unspecified)
  /-- Software reads (R186). -/
  | observe (o : Observable)
  deriving DecidableEq, Repr

/-- Why a step stops with a fault. No command raises one: a command's fault is a status code (R173) and a model fault is a
mark in the state (R176). -/
inductive Fault where
  /-- Raised by an observation of `pendingRx[i]` before any successful `RX_DECODE`, and by no command (R27: "has no value, and
  a model faults on it"; R201: "unwritten (a read faults)"; 93_implementation_defined.md: "fault"). Safe. -/
  | pendingRxUnwritten (i : Inst)
  /-- Raised by an observation of a word at an address that R58 gives to no register. Safe. -/
  | noRegister (addr : Word)
  deriving DecidableEq, Repr

/-- Why a step is refused. -/
inductive Refusal where
  /-- An instruction without a meaning; no arm answers with it. Safe. -/
  | notModelled (mnemonic : String)
  /-- The configuration breaks R121 or R52; raised by every step before any command runs. Safe. -/
  | badConfiguration
  /-- Raised by an observation of MCR, MSR, TSR or IER, which R58 gives to other units and whose contents the spec does
  not give. Safe. -/
  | foreignRegister (addr : Word)
  deriving DecidableEq, Repr

/-- The whole machine. `cfg` is fixed (R9); `inbox` and `bus` are the model's own: the events not yet taken, and the
record of register accesses, oldest first (R60). -/
structure State where
  cfg : Params
  can1 : Controller
  can2 : Controller
  filter : FilterUnit
  /-- "a model-only mark, one for the whole state" (R28). -/
  modelFault : Option ModelFault
  ports : Ports
  inbox : List Event
  bus : List Access
  deriving DecidableEq, Repr

/-- One instance at reset (R201), its unspecified values given. -/
def Controller.reset (u : ControllerUnspecified) : Controller where
  filterCount := 0
  status := 0x00#8
  faultLatch := false
  txLoaded := false
  rxHeld := false
  pendingRx := none
  mb0Empty := u.mb0Empty
  btr := Config.btrReset
  ti0r := u.ti0rHigh ++ 0#1
  tdt0r := u.tdt0r
  tdl0r := u.tdl0r
  tdh0r := u.tdh0r
  ri0r := u.ri0r
  rdt0r := u.rdt0r
  rdl0r := u.rdl0r
  rdh0r := u.rdh0r
  rf0r := 0x00000000#32

/-- The filter unit at reset (R201), the bank registers given. -/
def FilterUnit.reset (banks : Vector Bank 28) : FilterUnit where
  fmr := Config.fmrReset
  fm1r := 0x00000000#32
  fs1r := 0x00000000#32
  ffa1r := 0x00000000#32
  fa1r := 0x00000000#32
  banks := banks

/-- DESIGN CHOICE (log 6), unsafe: the values `State.reset` names where the spec says "an unknown value, never zero"
(R203). `mb0Empty` is PRESUMED (log 7): the family's TSR resets with TME0 = 1. -/
def ControllerUnspecified.named : ControllerUnspecified where
  ti0rHigh := 0x6F56DF77#31
  tdt0r := 0xDEADBEEF#32
  tdl0r := 0xDEADBEEF#32
  tdh0r := 0xDEADBEEF#32
  ri0r := 0xDEADBEEF#32
  rdt0r := 0xDEADBEEF#32
  rdl0r := 0xDEADBEEF#32
  rdh0r := 0xDEADBEEF#32
  mb0Empty := true

/-- DESIGN CHOICE (log 6), unsafe. -/
def Unspecified.named : Unspecified where
  can1 := .named
  can2 := .named
  banks := Vector.replicate 28 ⟨0xDEADBEEF#32, 0xDEADBEEF#32⟩

/-- DESIGN CHOICE (log 1), unsafe: what the ports carry before anything drives them. -/
def Ports.idle : Ports where
  argClock := 0#32
  argRate := 0#32
  argId := 0#29
  argFmt := 0#1
  argMode := 0#2
  argMsg := ⟨0#29, .standard, .data, 0#4, Vector.replicate 8 0#8⟩

/-- The machine right after reset (R200, R201), with the default parameters (R9), nothing presented (log 2) and no access
made (log 12). `modelFault` is `none` at launch (R28). -/
def State.reset : State where
  cfg := {}
  can1 := Controller.reset Unspecified.named.can1
  can2 := Controller.reset Unspecified.named.can2
  filter := FilterUnit.reset Unspecified.named.banks
  modelFault := none
  ports := Ports.idle
  inbox := []
  bus := []

end Sys2Proof.Machine
end

