-- ==== Sys2Proof/Machine/Ops.lean ====
section
/-! DEFINITION. The named operations over the registers and the block's own state: reads and writes as R12 defines them,
the status write, raising a fault (R173) and a model fault (R176). There is no trap entry and no trap return (R175, R178):
a fault's whole effect is `raiseFault`, and no operation undoes it but reset. -/

namespace Sys2Proof.Machine

/-- What a step or a meaning answers. -/
abbrev Result := Host.Outcome State Fault Refusal

/-- The state of one instance (R3). -/
def State.ctl (s : State) : Inst → Controller
  | .can1 => s.can1
  | .can2 => s.can2

/-- Change the state of one instance only (R42). -/
def State.mapCtl (s : State) (i : Inst) (f : Controller → Controller) : State :=
  match i with
  | .can1 => { s with can1 := f s.can1 }
  | .can2 => { s with can2 := f s.can2 }

/-- The image of an instance register. -/
def Controller.image (c : Controller) : CanReg → Word
  | .rf0r => c.rf0r
  | .btr => c.btr
  | .ti0r => c.ti0r
  | .tdt0r => c.tdt0r
  | .tdl0r => c.tdl0r
  | .tdh0r => c.tdh0r
  | .ri0r => c.ri0r
  | .rdt0r => c.rdt0r
  | .rdl0r => c.rdl0r
  | .rdh0r => c.rdh0r

/-- The image of a filter-unit register. -/
def FilterUnit.image (f : FilterUnit) : FilterReg → Word
  | .fmr => f.fmr
  | .fm1r => f.fm1r
  | .fs1r => f.fs1r
  | .ffa1r => f.ffa1r
  | .fa1r => f.fa1r
  | .r1 k => f.banks[k].r1
  | .r2 k => f.banks[k].r2

/-- The current value of a register (R64). -/
def State.image (s : State) : Reg → Word
  | .can i r => (s.ctl i).image r
  | .flt r => s.filter.image r

/-- RF0R after a write (R36): FMP0 is read-only, a 1 written to FULL0 or FOVR0 clears it and a 0 leaves it, every other bit
takes the written value. DEDUCED (log 5). -/
def rf0rAfterWrite (old v : Word) : Word :=
  (old &&& 0x00000003#32) ||| (old &&& ~~~v &&& 0x00000018#32) ||| (v &&& 0xFFFFFFE4#32)

/-- Store a written word in an instance register's image (R55). RI0R to RDH0R are read-only (R32). -/
def Controller.store (c : Controller) (r : CanReg) (v : Word) : Controller :=
  match r with
  | .rf0r => { c with rf0r := rf0rAfterWrite c.rf0r v }
  | .btr => { c with btr := v }
  | .ti0r => { c with ti0r := v }
  | .tdt0r => { c with tdt0r := v }
  | .tdl0r => { c with tdl0r := v }
  | .tdh0r => { c with tdh0r := v }
  | .ri0r | .rdt0r | .rdl0r | .rdh0r => c

/-- Store a written word in a filter-unit register's image (R55). -/
def FilterUnit.store (f : FilterUnit) (r : FilterReg) (v : Word) : FilterUnit :=
  match r with
  | .fmr => { f with fmr := v }
  | .fm1r => { f with fm1r := v }
  | .fs1r => { f with fs1r := v }
  | .ffa1r => { f with ffa1r := v }
  | .fa1r => { f with fa1r := v }
  | .r1 k => { f with banks := f.banks.set k { f.banks[k] with r1 := v } }
  | .r2 k => { f with banks := f.banks.set k { f.banks[k] with r2 := v } }

/-- Store a written word in a register's image (R55). -/
def State.store (s : State) (r : Reg) (v : Word) : State :=
  match r with
  | .can i r => s.mapCtl i fun c => c.store r v
  | .flt r => { s with filter := s.filter.store r v }

/-- Record an access, after every earlier one (R60). -/
def State.record (s : State) (a : Access) : State :=
  { s with bus := s.bus ++ [a] }

/-- `RegRead` (R12): the register's current value, and the state with the read recorded. A read has no side effect (R54). -/
def regRead (r : Reg) (s : State) : Word × State :=
  (s.image r, s.record (.read (regAddr s.cfg.map r) (s.image r)))

/-- `RegWrite` (R12): one whole word (R51, R53). -/
def regWrite (r : Reg) (v : Word) (s : State) : State :=
  (s.store r v).record (.write (regAddr s.cfg.map r) v)

/-- `mask` of R12. -/
def fieldMask (hi lo : Nat) : Word :=
  ((1#32 <<< (hi - lo + 1)) - 1#32) <<< lo

/-- The word `FieldWrite` writes (R12): every bit outside the field passes back unchanged (R85). -/
def insertField (old : Word) (hi lo : Nat) (v : Word) : Word :=
  (old &&& ~~~fieldMask hi lo) ||| ((v <<< lo) &&& fieldMask hi lo)

/-- `FieldWrite` (R12): a read, then a write. -/
def fieldWrite (r : Reg) (hi lo : Nat) (v : Word) (s : State) : State :=
  let old := regRead r s
  regWrite r (insertField old.1 hi lo v) old.2

/-- `status[i] <- code` (R12, R170). -/
def writeStatus (i : Inst) (code : StatusCode) (s : State) : State :=
  s.mapCtl i fun c => { c with status := code.code }

/-- `raise Fault(code)` (R173): the status and the sticky latch, and nothing else. -/
def raiseFault (i : Inst) (code : StatusCode) (s : State) : State :=
  s.mapCtl i fun c => { c with status := code.code, faultLatch := true }

/-- `raise ModelFault(reason)` (R176): the mark, and none of the command's writes. -/
def raiseModelFault (reason : ModelFault) (s : State) : State :=
  { s with modelFault := some reason }

/-- An illegal command word (R84). -/
def illegalCommand (i : Inst) (s : State) : State :=
  raiseFault i .illegalCommand s

/-- `txLoaded[i] <- b` (R25). -/
def setTxLoaded (i : Inst) (b : Bool) (s : State) : State :=
  s.mapCtl i fun c => { c with txLoaded := b }

/-- `rxHeld[i] <- b` (R26). -/
def setRxHeld (i : Inst) (b : Bool) (s : State) : State :=
  s.mapCtl i fun c => { c with rxHeld := b }

/-- `pendingRx[i] <- m`, all five fields at once (R156). -/
def setPendingRx (i : Inst) (m : Message) (s : State) : State :=
  s.mapCtl i fun c => { c with pendingRx := some m }

/-- `filterCount[i] <- filterCount[i] + 1` (R124). -/
def advanceFilterCount (i : Inst) (s : State) : State :=
  s.mapCtl i fun c => { c with filterCount := c.filterCount + 1 }

/-- The test `hazard_mb0_empty(i)` makes (R209). It is a check of the model, no register access (R38).
DESIGN CHOICE (log 18). -/
def mailboxFree (i : Inst) (s : State) : Bool :=
  (s.ctl i).mb0Empty

/-- The test `hazard_tx_loaded(i)` makes (R210). -/
def mailboxLoaded (i : Inst) (s : State) : Bool :=
  (s.ctl i).txLoaded

end Sys2Proof.Machine
end

