-- ==== Sys2Proof/Machine/Operands.lean ====
section
/-! DEFINITION. The operands of the commands: the argument ports (R81) and the codes they carry (R10, R108). -/

namespace Sys2Proof.Machine

/-- `ARG_CLOCK`, an unsigned integer (R10, R13). -/
def argClock (s : State) : Nat := s.ports.argClock.toNat

/-- `ARG_RATE`, an unsigned integer (R10, R13). -/
def argRate (s : State) : Nat := s.ports.argRate.toNat

/-- `ARG_ID` (R81). -/
def argId (s : State) : BitVec 29 := s.ports.argId

/-- A format argument: 0 = Standard, 1 = Extended (R10). -/
def formatOfCode (b : BitVec 1) : Format :=
  if b = 1#1 then .extended else .standard

/-- `ARG_FMT` (R124). -/
def argFmt (s : State) : Format := formatOfCode s.ports.argFmt

/-- `ARG_MSG` (R81). -/
def argMsg (s : State) : Message := s.ports.argMsg

/-- The first column of R108's table (D9). -/
def testModeOfCode (b : BitVec 2) : TestMode :=
  if b = 0#2 then .normal else if b = 1#2 then .loopbackOnly else if b = 2#2 then .silentOnly else .silentLoopback

/-- The last two columns of R108's table: {SILM, LBKM}. -/
def testModeBits : TestMode → BitVec 2
  | .normal => 0b00#2
  | .loopbackOnly => 0b01#2
  | .silentOnly => 0b10#2
  | .silentLoopback => 0b11#2

/-- Reading the table back (R108). -/
def testModeOfBits (b : BitVec 2) : TestMode :=
  if b = 0b00#2 then .normal else if b = 0b01#2 then .loopbackOnly else if b = 0b10#2 then .silentOnly
  else .silentLoopback

/-- `ARG_MODE` (R109). -/
def argMode (s : State) : TestMode := testModeOfCode s.ports.argMode

/-- The source's `testMode` of an instance: the pair {BTR[31], BTR[30]} (R39, R108). -/
def testMode (s : State) (i : Inst) : TestMode :=
  testModeOfBits ((s.ctl i).btr.extractLsb' 30 2)

end Sys2Proof.Machine
end

