-- ==== Sys2Proof/Machine/BitTiming.lean ====
section
/-! DEFINITION. The bit-timing calculator and the two commands that write BTR (40_bit_timing.md R100 to R110). -/

namespace Sys2Proof.Machine

/-- `btCalc` (R102), on unbounded integers (R103): the prescaler and whether the division is inexact, or the first error. -/
def btCalc (strict : Bool) (clock rate : Nat) : Except StatusCode (Nat × Bool) :=
  if rate = 0 then .error .btRateZero
  else
    let q := Config.tqPerBit * rate
    let p := clock / q
    let inexact := decide (clock % q ≠ 0)
    if p = 0 then .error .btPrescalerZero
    else if p > Config.prescalerMax then .error .btPrescalerRange
    else if inexact && strict then .error .btInexact
    else .ok (p, inexact)

/-- `sjwField` (R75; D5): `SJW_TQ − 1` under `quanta`, `SJW_TQ[1:0]` under `literal`. -/
def sjwField : SjwFieldMode → BitVec 2
  | .quanta => BitVec.ofNat 2 (Config.sjwTq - 1)
  | .literal => BitVec.ofNat 2 Config.sjwTq

/-- `btrWord` (R75). Reserved bits 29:26, 23 and 15:10 are 0. -/
def btrWord (prescaler : Nat) (sjw testBits : BitVec 2) : Word :=
  (testBits.setWidth 32 <<< 30) ||| (sjw.setWidth 32 <<< 24) |||
    (BitVec.ofNat 32 (Config.tseg2Tq - 1) <<< 20) ||| (BitVec.ofNat 32 (Config.tseg1Tq - 1) <<< 16) |||
    (BitVec.ofNat 10 (prescaler - 1)).setWidth 32

/-- `BT_PROGRAM(i)` (R104). -/
def execBtProgram (i : Inst) (s : State) : Result :=
  match btCalc s.cfg.strictBitTiming (argClock s) (argRate s) with
  | .error code => .next (raiseFault i code s)
  | .ok (p, inexact) =>
    let old := regRead (.can i .btr) s
    .next (writeStatus i (bitTimingStatus inexact)
      (regWrite (.can i .btr) (btrWord p (sjwField s.cfg.sjwFieldMode) (old.1.extractLsb' 30 2)) old.2))

/-- `SET_TEST_MODE(i)` (R109). Bits 29:0 are kept, reserved bits included. -/
def execSetTestMode (i : Inst) (s : State) : Result :=
  let old := regRead (.can i .btr) s
  .next (writeStatus i .ok
    (regWrite (.can i .btr)
      ((old.1 &&& 0x3FFFFFFF#32) ||| ((testModeBits (argMode s)).setWidth 32 <<< 30)) old.2))

end Sys2Proof.Machine
end

