-- ==== Sys2Proof/Machine/Codec.lean ====
section
/-! DEFINITION. The pure codec: register word formats (30_encoding.md R70 to R74, 20_memory.md R50) and Message
validation, encoding and decoding (42_frame_codec.md R140 to R142). -/

namespace Sys2Proof.Machine

/-- `encodeIdWord` (R70): bit 2 is the format, bit 1 the frame type, bit 0 (TXRQ) is 0. -/
def encodeIdWord (id : BitVec 29) (fmt : Format) (type : FrameType) : Word :=
  let w : Word :=
    match fmt with
    | .standard => (id.extractLsb' 0 11).setWidth 32 <<< 21
    | .extended => (id.setWidth 32 <<< 3) ||| (1#32 <<< 2)
  match type with
  | .data => w
  | .remote => w ||| (1#32 <<< 1)

/-- `decodeIdWord` (R71): bits 20:3 are ignored for Standard, bit 0 always (R85). -/
def decodeIdWord (w : Word) : BitVec 29 × Format × FrameType :=
  let fmt : Format := if w.extractLsb' 2 1 = 1#1 then .extended else .standard
  let id : BitVec 29 :=
    match fmt with
    | .standard => (w.extractLsb' 21 11).setWidth 29
    | .extended => w.extractLsb' 3 29
  (id, fmt, if w.extractLsb' 1 1 = 1#1 then .remote else .data)

/-- `lenWord` (R72): DLC in bits 3:0, bits 31:4 zero. -/
def lenWord (len : BitVec 4) : Word :=
  len.setWidth 32

/-- `packLow` (R73): bytes 3 to 0, byte 0 in bits 7:0 (R50). -/
def packLow (p : Vector Byte 8) : Word :=
  p[3] ++ p[2] ++ p[1] ++ p[0]

/-- `packHigh` (R73): bytes 7 to 4, byte 4 in bits 7:0 (R50). -/
def packHigh (p : Vector Byte 8) : Word :=
  p[7] ++ p[6] ++ p[5] ++ p[4]

/-- `unpack` (R73). -/
def unpack (lo hi : Word) : Vector Byte 8 :=
  #v[lo.extractLsb' 0 8, lo.extractLsb' 8 8, lo.extractLsb' 16 8, lo.extractLsb' 24 8,
    hi.extractLsb' 0 8, hi.extractLsb' 8 8, hi.extractLsb' 16 8, hi.extractLsb' 24 8]

/-- `filterWord` (R74): RTR and bit 0 are 0. -/
def filterWord (id : BitVec 29) (fmt : Format) : Word :=
  encodeIdWord id fmt .data

/-- `validateMsg` (R140): the first failing check, identifier before length. -/
def validateMsg (m : Message) : Except StatusCode Unit :=
  if m.identifierFormat = .standard ∧ m.identifier.toNat ≥ 2 ^ 11 then .error .msgInvalidId
  else if m.identifierFormat = .extended ∧ m.identifier.toNat ≥ 2 ^ 29 then .error .msgInvalidId
  else if m.length.toNat > 8 then .error .msgInvalidLength
  else .ok ()

/-- The four mailbox words (R141). -/
structure MailboxWords where
  ti : Word
  tdt : Word
  tdl : Word
  tdh : Word
  deriving DecidableEq, Repr

/-- `encodeMsg` (R141). Remote frames are encoded like data frames (R145). -/
def encodeMsg (m : Message) : MailboxWords where
  ti := encodeIdWord m.identifier m.identifierFormat m.frameType
  tdt := lenWord m.length
  tdl := packLow m.payload
  tdh := packHigh m.payload

/-- `decodeEntry` (R142): a DLC of 9 to 15 is an error, bits 31:4 of RDT0R are ignored. -/
def decodeEntry (ri rdt rdl rdh : Word) : Except StatusCode Message :=
  if (rdt.extractLsb' 0 4).toNat > 8 then .error .rxDlcRange
  else .ok ⟨(decodeIdWord ri).1, (decodeIdWord ri).2.1, (decodeIdWord ri).2.2, rdt.extractLsb' 0 4, unpack rdl rdh⟩

end Sys2Proof.Machine
end

