-- ==== Sys2Proof/Machine/Filter.lean ====
section
/-! DEFINITION. The acceptance filter register programmer (41_filter.md R120 to R132). -/

namespace Sys2Proof.Machine

/-- The bank an install writes, `BANK_BASE(i) + filterCount[i]` (R120). A configuration that step admits keeps it below 28
while `filterCount[i] < 14` (R121); outside that the number wraps, and no step runs there. DESIGN CHOICE (log 11). -/
def bankIndex (i : Inst) (s : State) : Fin 28 :=
  Fin.ofNat 28 (s.cfg.bankBase i + (s.ctl i).filterCount)

/-- The identifier is wider than its format admits (R124, R128). -/
def filterIdInvalid (id : BitVec 29) (fmt : Format) : Bool :=
  fmt = .standard && decide (id.toNat ≥ 2 ^ 11)

/-- Steps 1 to 8 of `FLT_INSTALL` (R124, R125), on bank `k` with match word `w`. -/
def programBank (k : Fin 28) (w : Word) (s : State) : State :=
  let s := fieldWrite (.flt .fmr) 0 0 1#32 s
  let s := fieldWrite (.flt .fs1r) k.val k.val 1#32 s
  let s := fieldWrite (.flt .fm1r) k.val k.val 1#32 s
  let s := regWrite (.flt (.r1 k)) w s
  let s := regWrite (.flt (.r2 k)) 0x00000000#32 s
  let s := fieldWrite (.flt .ffa1r) k.val k.val 0#32 s
  let s := fieldWrite (.flt .fa1r) k.val k.val 1#32 s
  fieldWrite (.flt .fmr) 0 0 0#32 s

/-- `FLT_INSTALL(i)` (R124): saturation first, then the identifier, each before any register access. -/
def execFltInstall (i : Inst) (s : State) : Result :=
  if (s.ctl i).filterCount ≥ Config.filtersPerInstance then .next (writeStatus i .noopSaturated s)
  else if filterIdInvalid (argId s) (argFmt s) then .next (raiseFault i .fltInvalidId s)
  else
    .next (writeStatus i .ok
      (advanceFilterCount i (programBank (bankIndex i s) (filterWord (argId s) (argFmt s)) s)))

end Sys2Proof.Machine
end

