-- ==== Sys2Proof/Machine/Frame.lean ====
section
/-! DEFINITION. The four frame commands (42_frame_codec.md R146 to R160). -/

namespace Sys2Proof.Machine

/-- Writes 1 to 5 of `TX_LOAD` (R146, R148). -/
def loadMailbox (i : Inst) (w : MailboxWords) (s : State) : State :=
  let s := regWrite (.can i .ti0r) 0x00000000#32 s
  let s := regWrite (.can i .ti0r) w.ti s
  let s := regWrite (.can i .tdt0r) w.tdt s
  let s := regWrite (.can i .tdl0r) w.tdl s
  regWrite (.can i .tdh0r) w.tdh s

/-- `TX_LOAD(i)` (R146): validation, then the model check of R209, then the writes. -/
def execTxLoad (i : Inst) (s : State) : Result :=
  match validateMsg (argMsg s) with
  | .error code => .next (raiseFault i code s)
  | .ok () =>
    if mailboxFree i s = false then .next (raiseModelFault .txBusy s)
    else .next (writeStatus i .ok (setTxLoaded i true (loadMailbox i (encodeMsg (argMsg s)) s)))

/-- `TX_REQUEST(i)` (R150): the model check of R210, then TXRQ by read-modify-write. -/
def execTxRequest (i : Inst) (s : State) : Result :=
  if mailboxLoaded i s = false then .next (raiseModelFault .txNotLoaded s)
  else .next (writeStatus i .ok (setTxLoaded i false (fieldWrite (.can i .ti0r) 0 0 1#32 s)))

/-- `RX_DECODE(i)` (R155). Reads made before a fault stay made (R173). -/
def execRxDecode (i : Inst) (s : State) : Result :=
  let rf := regRead (.can i .rf0r) s
  if rf.1.extractLsb' 0 2 = 0#2 then .next (raiseFault i .rxEmpty rf.2)
  else
    let ri := regRead (.can i .ri0r) rf.2
    let rdt := regRead (.can i .rdt0r) ri.2
    let rdl := regRead (.can i .rdl0r) rdt.2
    let rdh := regRead (.can i .rdh0r) rdl.2
    match decodeEntry ri.1 rdt.1 rdl.1 rdh.1 with
    | .error code => .next (raiseFault i code rdh.2)
    | .ok m => .next (writeStatus i .ok (setRxHeld i true (setPendingRx i m rdh.2)))

/-- `RX_RELEASE(i)` (R159): RFOM0 = 1, and FULL0 and FOVR0 written 0. -/
def execRxRelease (i : Inst) (s : State) : Result :=
  .next (writeStatus i .ok (setRxHeld i false (regWrite (.can i .rf0r) 0x00000020#32 s)))

end Sys2Proof.Machine
end

