-- ==== Sys2Proof/Machine/Dispatch.lean ====
section
/-! DEFINITION. One arm per command (R82), each one call of its meaning. -/

namespace Sys2Proof.Machine

def exec (i : Instr) (s : State) : Host.Outcome State Fault Refusal :=
  match i with
  | .btProgram c => Sys2Proof.Machine.execBtProgram c s
  | .setTestMode c => Sys2Proof.Machine.execSetTestMode c s
  | .fltInstall c => Sys2Proof.Machine.execFltInstall c s
  | .txLoad c => Sys2Proof.Machine.execTxLoad c s
  | .txRequest c => Sys2Proof.Machine.execTxRequest c s
  | .rxDecode c => Sys2Proof.Machine.execRxDecode c s
  | .rxRelease c => Sys2Proof.Machine.execRxRelease c s

end Sys2Proof.Machine
end

