-- ==== Sys2Proof/Machine/Environment.lean ====
section
/-! DEFINITION. What each event from outside does (log 2): a command word runs, the ports and the peripheral's own bits
change, reset, and an observation. -/

namespace Sys2Proof.Machine

/-- One command word (R83): the decoded command runs; an illegal word writes status and latch only (R84). -/
def runWord (w : Word) (s : State) : Result :=
  match decode w with
  | .ok i => exec i s
  | .error e => .next (illegalCommand e.inst s)

/-- RF0R as the peripheral shows it (R36): its own bits replaced, the reserved bits kept. -/
def rf0rShown (old : Word) (p : PeripheralInputs) : Word :=
  (old &&& 0xFFFFFFC4#32) ||| p.fmp0.setWidth 32 ||| ((BitVec.ofBool p.full0).setWidth 32 <<< 3) |||
    ((BitVec.ofBool p.fovr0).setWidth 32 <<< 4) ||| ((BitVec.ofBool p.rfom0).setWidth 32 <<< 5)

/-- The peripheral-owned bits of one instance take new values (R38, R55), under no law; every other bit stays. DEDUCED
(log 3, 4). -/
def showPeripheral (i : Inst) (p : PeripheralInputs) (s : State) : State :=
  s.mapCtl i fun c =>
    { c with
      mb0Empty := p.mb0Empty
      ti0r := c.ti0r.extractLsb' 1 31 ++ BitVec.ofBool p.txrq
      rf0r := rf0rShown c.rf0r p
      ri0r := p.ri0r
      rdt0r := p.rdt0r
      rdl0r := p.rdl0r
      rdh0r := p.rdh0r }

/-- The reset signal (R200, R201). `modelFault` is not changed (R28). DEDUCED (log 13): the configuration, ports, inbox and
record are not either. -/
def applyReset (u : Unspecified) (s : State) : State :=
  { s with
    can1 := Controller.reset u.can1
    can2 := Controller.reset u.can2
    filter := FilterUnit.reset u.banks }

/-- The register at an address (R58). -/
def regAt (m : AddressMap) (addr : Word) : Option Reg :=
  allRegs.find? fun r => regAddr m r == addr

/-- A word of the peripheral register space as software reads it (R12 `MemRead`, R56, R58). DESIGN CHOICE
(log 15). -/
def memRead (addr : Word) (s : State) : Host.Outcome Word Fault Refusal :=
  match regAt s.cfg.map addr with
  | some r => .next (s.image r)
  | none =>
    if (foreignAddrs s.cfg.map).contains addr then .refused (.foreignRegister addr)
    else .fault (.noRegister addr)

/-- A read of `pendingRx[i]` by software. While the slot is unwritten, the reset value R27 states for it, "a model faults on
it" (R27; R201: "a read faults"; 93_implementation_defined.md: "fault"). -/
def readPendingRx (i : Inst) (s : State) : Host.Outcome Message Fault Refusal :=
  match (s.ctl i).pendingRx with
  | some m => .next m
  | none => .fault (.pendingRxUnwritten i)

/-- What software sees (R186). -/
def observe (o : Observable) (s : State) : Host.Outcome Observed Fault Refusal :=
  match o with
  | .filterCount i => .next (.count (s.ctl i).filterCount)
  | .status i => .next (.byte (s.ctl i).status)
  | .faultLatch i => .next (.flag (s.ctl i).faultLatch)
  | .pendingRx i =>
    match readPendingRx i s with
    | .next m => .next (.message m)
    | .fault f => .fault f
    | .refused r => .refused r
  | .image r => .next (.word (s.image r))
  | .word a =>
    match memRead a s with
    | .next w => .next (.word w)
    | .fault f => .fault f
    | .refused r => .refused r

/-- One event. An observation changes nothing (R54). -/
def handle (e : Event) (s : State) : Result :=
  match e with
  | .command w => runWord w s
  | .drivePorts p => .next { s with ports := p }
  | .peripheral i p => .next (showPeripheral i p s)
  | .reset u => .next (applyReset u s)
  | .observe o =>
    match observe o s with
    | .next _ => .next s
    | .fault f => .fault f
    | .refused r => .refused r

/-- Take the next event, in the order presented (R21, R60); with none, the block waits unchanged (log 2). A configuration
that breaks R52 or R121 is refused before any command runs. -/
def takeEvent (s : State) : Result :=
  if configurationOk s.cfg then
    match s.inbox with
    | [] => .next s
    | e :: rest => handle e { s with inbox := rest }
  else .refused .badConfiguration

/-- Present a command word as the very next event. -/
def presentNext (w : Word) (s : State) : State :=
  { s with inbox := .command w :: s.inbox }

end Sys2Proof.Machine
end

