-- ==== Sys2Proof/Machine/Step.lean ====
section
/-! DEFINITION. One step of the machine (R21, R62): one event, taken whole. -/

namespace Sys2Proof.Machine

/-- One step: at most one command (R21), untimed (R216). DEDUCED (log 19). -/
def step (s : State) : Host.Outcome State Fault Refusal :=
  takeEvent s

/-- `s` with the command word `w` presented next (log 2). The block has no program counter and fetches nothing (R21, R63):
a word reaches it on the command port. -/
def State.withFetchWord (s : State) (nbits w : Nat) : State :=
  presentNext (BitVec.ofNat 32 (w % 2 ^ nbits)) s

end Sys2Proof.Machine
end

