-- ==== Sys2Proof/Machine/Assembly.lean ====
section
/-! DEFINITION. The assembler lines and the pseudo-commands of the spec (30_encoding.md R87, R88), as data and as runs of
commands. The bracketed steps of R88 belong to surrounding software and are left out (R6; log 14). -/

namespace Sys2Proof.Machine

/-- One line of R87: a mnemonic, an instance, and the operands that set argument ports. -/
inductive AsmLine where
  | btProgram (i : Inst) (clock rate : BitVec 32)
  | setTestMode (i : Inst) (mode : TestMode)
  | fltInstall (i : Inst) (id : BitVec 29) (fmt : Format)
  | txLoad (i : Inst) (fmt : Format) (id : BitVec 29) (type : FrameType) (len : BitVec 4) (bytes : List Byte)
  | txRequest (i : Inst)
  | rxDecode (i : Inst)
  | rxRelease (i : Inst)
  deriving DecidableEq, Repr

/-- "A payload list shorter than 8 bytes is padded with `0x00` up to 8" (R87). DESIGN CHOICE (log 20): bytes past the eighth,
which R87's syntax does not have, are dropped. -/
def padPayload (bytes : List Byte) : Vector Byte 8 :=
  #v[bytes.getD 0 0#8, bytes.getD 1 0#8, bytes.getD 2 0#8, bytes.getD 3 0#8,
    bytes.getD 4 0#8, bytes.getD 5 0#8, bytes.getD 6 0#8, bytes.getD 7 0#8]

/-- `STD|EXT` as `ARG_FMT` (R87). -/
def formatCode : Format → BitVec 1
  | .standard => 0#1
  | .extended => 1#1

/-- `NORMAL|LOOPBACK|SILENT|SILENT_LOOPBACK` as `ARG_MODE` (R87, R108). -/
def testModeCode : TestMode → BitVec 2
  | .normal => 0#2
  | .loopbackOnly => 1#2
  | .silentOnly => 2#2
  | .silentLoopback => 3#2

/-- The command a line stands for. -/
def asmInstr : AsmLine → Instr
  | .btProgram i _ _ => .btProgram i
  | .setTestMode i _ => .setTestMode i
  | .fltInstall i _ _ => .fltInstall i
  | .txLoad i _ _ _ _ _ => .txLoad i
  | .txRequest i => .txRequest i
  | .rxDecode i => .rxDecode i
  | .rxRelease i => .rxRelease i

/-- The ports after a line's operands are set; a line leaves the ports it does not name. -/
def asmPorts (l : AsmLine) (p : Ports) : Ports :=
  match l with
  | .btProgram _ clock rate => { p with argClock := clock, argRate := rate }
  | .setTestMode _ mode => { p with argMode := testModeCode mode }
  | .fltInstall _ id fmt => { p with argId := id, argFmt := formatCode fmt }
  | .txLoad _ fmt id type len bytes => { p with argMsg := ⟨id, fmt, type, len, padPayload bytes⟩ }
  | .txRequest _ | .rxDecode _ | .rxRelease _ => p

/-- The events a line presents: its operands on the ports, then its command word. -/
def assemble (l : AsmLine) (p : Ports) : List Event :=
  [.drivePorts (asmPorts l p), .command (encode (asmInstr l))]

/-- A line's operands on the ports, then its command. -/
def runLine (l : AsmLine) (s : State) : Result :=
  exec (asmInstr l) { s with ports := asmPorts l s.ports }

/-- Run `f` after an outcome, if it is a next state. -/
def andThen (r : Result) (f : State → Result) : Result :=
  match r with
  | .next s => f s
  | .fault e => .fault e
  | .refused e => .refused e

/-- The block's part of `configure(i)` (R88). -/
def pseudoConfigure (i : Inst) (clock rate : BitVec 32) (s : State) : Result :=
  runLine (.btProgram i clock rate) s

/-- `setTestMode(i, m)` (R88). -/
def pseudoSetTestMode (i : Inst) (m : TestMode) (s : State) : Result :=
  runLine (.setTestMode i m) s

/-- `installFilter(i, id, f)` (R88). -/
def pseudoInstallFilter (i : Inst) (id : BitVec 29) (f : Format) (s : State) : Result :=
  runLine (.fltInstall i id f) s

/-- The block's part of `send(i, m)` (R88): `TX_LOAD`, then `TX_REQUEST`. -/
def pseudoSend (i : Inst) (m : Message) (s : State) : Result :=
  andThen
    (runLine (.txLoad i m.identifierFormat m.identifier m.frameType m.length m.payload.toList) s)
    (runLine (.txRequest i))

/-- The block's part of the receive handler (R88): `RX_RELEASE` is omitted when the status is RX_EMPTY. -/
def pseudoReceive (i : Inst) (s : State) : Result :=
  andThen (runLine (.rxDecode i) s) fun t =>
    if (t.ctl i).status = StatusCode.rxEmpty.code then .next t else runLine (.rxRelease i) t

end Sys2Proof.Machine
end

