-- ==== Sys2Proof/Safety.lean ====
section
/-! DEFINITION. What counts as a safe run, and the words in which claims speak of a step: views of the state, what stays
unchanged, invariants, and relations between two states. -/

namespace Sys2Proof.Safety

open Sys2Proof.Machine

/-- No model fault is marked: the premise every claim about a run takes (R176). -/
def Clean (s : State) : Prop := s.modelFault = none

/-- The duty of R160 and R211 at a state: a release is issued only for an entry that was decoded. -/
def ReleaseDuty (i : Instr) (s : State) : Prop :=
  ∀ c, i = .rxRelease c → (s.ctl c).rxHeld = true

/-- The block-internal state of one instance (R22 to R27) and its one input bit (R38). -/
structure Internal where
  filterCount : Nat
  status : BitVec 8
  faultLatch : Bool
  txLoaded : Bool
  rxHeld : Bool
  pendingRx : Option Message
  mb0Empty : Bool
  deriving DecidableEq, Repr

/-- Everything of one instance that is not a register image. -/
def internal (s : State) (i : Inst) : Internal where
  filterCount := (s.ctl i).filterCount
  status := (s.ctl i).status
  faultLatch := (s.ctl i).faultLatch
  txLoaded := (s.ctl i).txLoaded
  rxHeld := (s.ctl i).rxHeld
  pendingRx := (s.ctl i).pendingRx
  mb0Empty := (s.ctl i).mb0Empty

/-- Every register image outside `written` reads as before. -/
def ImagesKeptBut (written : List Reg) (s t : State) : Prop :=
  ∀ r, r ∉ written → t.image r = s.image r

/-- Configuration, ports, inbox and the model-fault mark are unchanged. -/
structure OutsideKept (s t : State) : Prop where
  cfg : t.cfg = s.cfg
  ports : t.ports = s.ports
  inbox : t.inbox = s.inbox
  modelFault : t.modelFault = s.modelFault

/-- `t` is `s` after a command on instance `i` that writes the registers `written`, makes the accesses `made` in that
order, and leaves the internal state of `i` as `now`. -/
structure Effect (i : Inst) (written : List Reg) (made : List Access) (now : Internal) (s t : State) : Prop where
  own : internal t i = now
  other : internal t i.other = internal s i.other
  images : ImagesKeptBut written s t
  outside : OutsideKept s t
  bus : t.bus = s.bus ++ made

/-- `t` is `s` after a fault of `code` on instance `i` (R173), the reads `made` before it recorded. -/
def Faulted (i : Inst) (code : StatusCode) (made : List Access) (s t : State) : Prop :=
  Effect i [] made { internal s i with status := code.code, faultLatch := true } s t

/-- The address of a register in this state's map (R58). -/
def addrOf (s : State) (r : Reg) : Word := regAddr s.cfg.map r

/-- A read of a register as the peripheral sees it in state `s`. -/
def readOf (s : State) (r : Reg) : Access := .read (addrOf s r) (s.image r)

/-- A write of `v` to a register as the peripheral sees it in state `s`. -/
def writeOf (s : State) (r : Reg) (v : Word) : Access := .write (addrOf s r) v

/-- The words in mailbox 0 are those of a valid Message, TXRQ aside (R55, R141). -/
def MailboxHoldsMessage (c : Controller) : Prop :=
  ∃ m : Message, m.valid = true ∧ c.ti0r.extractLsb' 1 31 = (encodeMsg m).ti.extractLsb' 1 31 ∧
    c.tdt0r = (encodeMsg m).tdt ∧ c.tdl0r = (encodeMsg m).tdl ∧ c.tdh0r = (encodeMsg m).tdh

/-- What every reachable state of one instance satisfies. -/
structure ControllerInv (c : Controller) : Prop where
  /-- R22: 0 to 14. -/
  count : c.filterCount ≤ 14
  /-- R170: no other value is ever written. -/
  statusKnown : isStatusCode c.status = true
  /-- R173, R178: a fault code in the status implies the latch. -/
  latched : isFaultCode c.status = true → c.faultLatch = true
  /-- R142: every decoded Message is valid. -/
  pendingValid : ∀ m, c.pendingRx = some m → m.valid = true
  /-- R156: an entry held was decoded. -/
  heldWritten : c.rxHeld = true → c.pendingRx ≠ none
  /-- R25, R141, R147: a loaded mailbox holds a valid Message. -/
  loaded : c.txLoaded = true → MailboxHoldsMessage c
  /-- R29, R85: BTR bits 29:26, 23 and 15:10 are 0. -/
  btrReserved : c.btr &&& 0x3C80FC00#32 = 0#32
  /-- R36, R85: RF0R bits 31:6 and 2 are 0. -/
  rf0rReserved : c.rf0r &&& 0xFFFFFFC4#32 = 0#32

/-- What every reachable state satisfies, whatever the configuration. -/
structure BlockInv (s : State) : Prop where
  can1 : ControllerInv s.can1
  can2 : ControllerInv s.can2
  /-- R33, R129: every FMR bit but FINIT keeps its reset value, CAN2SB = 14 among them. -/
  fmrKept : s.filter.fmr.extractLsb' 1 31 = Config.fmrReset.extractLsb' 1 31
  /-- R34: bits 31:28 of the four vectors are reserved and stay 0. -/
  vectorsReserved : s.filter.fm1r.extractLsb' 28 4 = 0#4 ∧ s.filter.fs1r.extractLsb' 28 4 = 0#4 ∧
    s.filter.ffa1r.extractLsb' 28 4 = 0#4 ∧ s.filter.fa1r.extractLsb' 28 4 = 0#4

/-- Bank `b` is one of the banks instance `i` has installed: `BANK_BASE(i) ≤ b < BANK_BASE(i) + filterCount[i]` (R120). -/
def InstalledBy (s : State) (i : Inst) (b : Fin 28) : Prop :=
  s.cfg.bankBase i ≤ b.val ∧ b.val < s.cfg.bankBase i + (s.ctl i).filterCount

/-- Bank `b` has been installed by either instance. -/
def Installed (s : State) (b : Fin 28) : Prop :=
  InstalledBy s .can1 b ∨ InstalledBy s .can2 b

/-- The word is a filter match word: RTR and bit 0 are 0, and a Standard word has bits 20:3 zero (R70, R74). -/
def IsFilterWord (w : Word) : Prop :=
  w.extractLsb' 0 2 = 0#2 ∧ (w.getLsbD 2 = false → w.extractLsb' 3 18 = 0#18)

/-- The filter unit holds exactly the banks that the two cursors say are installed (R120, R127, R129, R132), and FINIT is
0 exactly when some install has run (R208, R213). -/
structure FilterInv (s : State) : Prop where
  counts : s.can1.filterCount ≤ 14 ∧ s.can2.filterCount ≤ 14
  active : ∀ b : Fin 28, s.filter.fa1r.getLsbD b.val = true ↔ Installed s b
  scale : ∀ b : Fin 28, s.filter.fs1r.getLsbD b.val = true ↔ Installed s b
  listMode : ∀ b : Fin 28, s.filter.fm1r.getLsbD b.val = true ↔ Installed s b
  toFifo0 : ∀ b : Fin 28, s.filter.ffa1r.getLsbD b.val = false
  words : ∀ b : Fin 28, Installed s b → IsFilterWord s.filter.banks[b].r1 ∧ s.filter.banks[b].r2 = 0#32
  finit : s.filter.fmr.getLsbD 0 = false ↔ 0 < s.can1.filterCount ∨ 0 < s.can2.filterCount

/-- Two instances agree wherever their own state says that the spec specifies a value (R201, R203): everything but bits 31:1
of TI0R, TDT0R, TDL0R and TDH0R while nothing is loaded, and the FIFO entry while FMP0 = 0. -/
def ControllersAgree (c d : Controller) : Prop :=
  c.filterCount = d.filterCount ∧ c.status = d.status ∧ c.faultLatch = d.faultLatch ∧ c.txLoaded = d.txLoaded ∧
    c.rxHeld = d.rxHeld ∧ c.pendingRx = d.pendingRx ∧ c.mb0Empty = d.mb0Empty ∧ c.btr = d.btr ∧ c.rf0r = d.rf0r ∧
    c.ti0r.getLsbD 0 = d.ti0r.getLsbD 0 ∧
    (c.txLoaded = true → c.ti0r = d.ti0r ∧ c.tdt0r = d.tdt0r ∧ c.tdl0r = d.tdl0r ∧ c.tdh0r = d.tdh0r) ∧
    (c.rf0r.extractLsb' 0 2 ≠ 0#2 →
      c.ri0r = d.ri0r ∧ c.rdt0r = d.rdt0r ∧ c.rdl0r = d.rdl0r ∧ c.rdh0r = d.rdh0r)

/-- Two states agree wherever their own state says that the spec specifies a value (R201, R203): the bank registers FkR1 and
FkR2 may differ too, while bank k is not installed. -/
def StatesAgree (s t : State) : Prop :=
  s.cfg = t.cfg ∧ ControllersAgree s.can1 t.can1 ∧ ControllersAgree s.can2 t.can2 ∧ s.filter.fmr = t.filter.fmr ∧
    s.filter.fm1r = t.filter.fm1r ∧ s.filter.fs1r = t.filter.fs1r ∧ s.filter.ffa1r = t.filter.ffa1r ∧
    s.filter.fa1r = t.filter.fa1r ∧ (∀ b : Fin 28, Installed s b → s.filter.banks[b] = t.filter.banks[b]) ∧
    s.modelFault = t.modelFault ∧ s.ports = t.ports ∧ s.inbox = t.inbox ∧ s.bus = t.bus

/-- Two outcomes agree: next states that agree, or the same stop. -/
def OutcomesAgree : Result → Result → Prop
  | .next s, .next t => StatesAgree s t
  | .fault a, .fault b => a = b
  | .refused a, .refused b => a = b
  | _, _ => False

/-- Two states are equal but for the status of the instances and the record of accesses. -/
def SameButStatus (s t : State) : Prop :=
  s.cfg = t.cfg ∧ s.filter = t.filter ∧ s.modelFault = t.modelFault ∧ s.ports = t.ports ∧ s.inbox = t.inbox ∧
    ∀ i : Inst, { s.ctl i with status := 0#8 } = { t.ctl i with status := 0#8 }

/-- Two sets of port values agree on the ports a command reads (R82, "reads ports"). -/
def NamedPortsAgree (a : Instr) (p q : Ports) : Prop :=
  match a with
  | .btProgram _ => p.argClock = q.argClock ∧ p.argRate = q.argRate
  | .setTestMode _ => p.argMode = q.argMode
  | .fltInstall _ => p.argId = q.argId ∧ p.argFmt = q.argFmt
  | .txLoad _ => p.argMsg = q.argMsg
  | .txRequest _ | .rxDecode _ | .rxRelease _ => True

/-- Run one command and then another. -/
def execTwo (a b : Instr) (s : State) : Result :=
  andThen (exec a s) (exec b)

end Sys2Proof.Safety
end

