-- ==== Sys2Proof/Certificates/Slice0/Obligations.lean ====
section
/-! DEFINITION. The statements for the provers. Each docstring names the rule of spec/ that a statement formalises, or
says that it is derived or the model's own choice. The accesses a command makes are read off the record `bus` (log 12). -/

open Sys2Proof Sys2Proof.Machine Sys2Proof.Safety

/-! ## Command words and the step -/

/-- R80, R82, R84: the fourteen words of the opcode map, written out, and illegal words of 95_test_vectors V-CD4 to V-CD8. -/
def Obligations.TableWordsDecodeAsListed : Prop :=
  decode 0x00000001#32 = .ok (.btProgram .can1) ∧ decode 0x00000011#32 = .ok (.btProgram .can2) ∧
  decode 0x00000002#32 = .ok (.setTestMode .can1) ∧ decode 0x00000012#32 = .ok (.setTestMode .can2) ∧
  decode 0x00000003#32 = .ok (.fltInstall .can1) ∧ decode 0x00000013#32 = .ok (.fltInstall .can2) ∧
  decode 0x00000004#32 = .ok (.txLoad .can1) ∧ decode 0x00000014#32 = .ok (.txLoad .can2) ∧
  decode 0x00000005#32 = .ok (.txRequest .can1) ∧ decode 0x00000015#32 = .ok (.txRequest .can2) ∧
  decode 0x00000006#32 = .ok (.rxDecode .can1) ∧ decode 0x00000016#32 = .ok (.rxDecode .can2) ∧
  decode 0x00000007#32 = .ok (.rxRelease .can1) ∧ decode 0x00000017#32 = .ok (.rxRelease .can2) ∧
  decode 0x00000000#32 = .error (.reservedOpcode .can1) ∧ decode 0x00000018#32 = .error (.reservedOpcode .can2) ∧
  decode 0x0000000F#32 = .error (.reservedOpcode .can1) ∧ decode 0x00000021#32 = .error (.reservedBits .can1) ∧
  decode 0x80000013#32 = .error (.reservedBits .can2)

/-- R80, R82: over all 32-bit words, a word decodes to a command exactly when it is that command's encoding. So decoding
inverts encoding, no bit is dropped, and no other word is taken for a command. -/
def Obligations.DecodeInvertsEncodeOnAllWords : Prop :=
  ∀ (w : Word) (i : Instr), decode w = .ok i ↔ w = encode i

/-- R83: every word decodes to a command of the instance that bit 4 gives, or is illegal for that instance; it is illegal
exactly when a bit of 31:5 is set or the opcode is outside 1 to 7. -/
def Obligations.EveryWordIsACommandOrIllegal : Prop :=
  ∀ w : Word,
    let inst : Inst := if w.getLsbD 4 then .can2 else .can1
    let illegal : Prop := w.toNat ≥ 2 ^ 5 ∨ w.toNat % 16 = 0 ∨ w.toNat % 16 ≥ 8
    (illegal → ∃ e, decode w = .error e ∧ e.inst = inst) ∧ (¬ illegal → ∃ i, decode w = .ok i ∧ i.inst = inst)

/-- R84: an illegal word writes ILLEGAL_COMMAND and the latch of the instance of bit 4, and nothing else. -/
def Obligations.IllegalWordOnlySetsStatusAndLatch : Prop :=
  ∀ (s : State) (w : Word), (w.toNat ≥ 2 ^ 5 ∨ w.toNat % 16 = 0 ∨ w.toNat % 16 ≥ 8) →
    ∃ t, runWord w s = .next t ∧ Faulted (if w.getLsbD 4 then .can2 else .can1) .illegalCommand [] s t

/-- R21, R60: when the next event is a word that decodes to a well-formed command, the step is that command, the event
taken from the inbox; when the word is illegal, the step is the effect of R84. The inbox is the model's own (log 2). -/
def Obligations.StepRunsTheDecodedCommand : Prop :=
  ∀ (s : State) (w : Word) (rest : List Event), configurationOk s.cfg = true → s.inbox = .command w :: rest →
    (∀ i, decode w = .ok i → i.wellFormed = true → step s = exec i { s with inbox := rest }) ∧
    ∀ e, decode w = .error e → step s = .next (illegalCommand e.inst { s with inbox := rest })

/-- The model's choice (log 2): with nothing presented the block waits, its state unchanged. -/
def Obligations.StepWithNothingPresentedKeepsState : Prop :=
  ∀ s : State, configurationOk s.cfg = true → s.inbox = [] → step s = .next s

/-- R121, R52: a configuration is refused exactly when the two bank ranges share a bank, a range leaves 0 to 27, or some
address of the map is not a multiple of 4. -/
def Obligations.BadConfigurationsAreRefused : Prop :=
  ∀ s : State,
    step s = .refused .badConfiguration ↔
      ((∃ k, s.cfg.bankBase1 ≤ k ∧ k ≤ s.cfg.bankBase1 + 13 ∧ s.cfg.bankBase2 ≤ k ∧ k ≤ s.cfg.bankBase2 + 13) ∨
        (∃ i : Inst, s.cfg.bankBase i + 13 > 27) ∨
        (∃ r : Reg, (regAddr s.cfg.map r).toNat % 4 ≠ 0) ∨
        (∃ a ∈ foreignAddrs s.cfg.map, a.toNat % 4 ≠ 0))

/-- R58: with the default map, software reads each register the block reaches at its address. -/
def Obligations.DefaultMapReachesEveryRegister : Prop :=
  ∀ (s : State) (r : Reg), s.cfg.map = {} → memRead (regAddr {} r) s = .next (s.image r)

/-! ## Bit timing -/

/-- R102: each outcome of the calculator, for all clocks, rates and both settings of STRICT_BIT_TIMING. -/
def Obligations.BtCalcMeetsTheFormula : Prop :=
  ∀ (strict : Bool) (clock rate : Nat),
    (btCalc strict clock rate = .error .btRateZero ↔ rate = 0) ∧
    (btCalc strict clock rate = .error .btPrescalerZero ↔ rate ≠ 0 ∧ clock < 7 * rate) ∧
    (btCalc strict clock rate = .error .btPrescalerRange ↔ rate ≠ 0 ∧ 7 * 1025 * rate ≤ clock) ∧
    (btCalc strict clock rate = .error .btInexact ↔
      strict = true ∧ rate ≠ 0 ∧ 7 * rate ≤ clock ∧ clock < 7 * 1025 * rate ∧ ¬ 7 * rate ∣ clock) ∧
    (∀ p inexact, btCalc strict clock rate = .ok (p, inexact) ↔
      rate ≠ 0 ∧ 1 ≤ p ∧ p ≤ 1024 ∧ 7 * rate * p ≤ clock ∧ clock < 7 * rate * (p + 1) ∧
        (inexact = true ↔ ¬ 7 * rate ∣ clock) ∧ (inexact = true → strict = false))

/-- R103: for every rate above 613,566,756 the product exceeds 32 bits and is used at full width, so no 32-bit clock
reaches it. -/
def Obligations.RateProductNeverWraps : Prop :=
  ∀ (i : Inst) (s : State), s.ports.argRate.toNat > 613566756 →
    ∃ t, exec (.btProgram i) s = .next t ∧ Faulted i .btPrescalerZero [] s t

/-- R101 (the spec's own inference): the realised rate `clock / (7 · p)` is the target exactly when `clock` is a multiple of `7 · rate`, and is higher
otherwise. -/
def Obligations.RealisedRateIsNeverBelowTarget : Prop :=
  ∀ (strict : Bool) (clock rate p : Nat) (inexact : Bool), btCalc strict clock rate = .ok (p, inexact) →
    ((clock : ℚ) / (7 * p) = rate ↔ 7 * rate ∣ clock) ∧ (¬ 7 * rate ∣ clock → (rate : ℚ) < clock / (7 * p))

/-- R104, R75: a `BT_PROGRAM` whose calculation succeeds completes with each BTR field as given, the test bits kept, and
status OK or OK_INEXACT; one whose calculation fails faults with that code and no register access. -/
def Obligations.BtProgramWritesTimingFieldsOrFaults : Prop :=
  ∀ (i : Inst) (s : State),
    (∀ p inexact, btCalc s.cfg.strictBitTiming s.ports.argClock.toNat s.ports.argRate.toNat = .ok (p, inexact) →
      ∃ (t : State) (new : Word), exec (.btProgram i) s = .next t ∧ t.image (.can i .btr) = new ∧
        new.extractLsb' 30 2 = (s.image (.can i .btr)).extractLsb' 30 2 ∧ new.extractLsb' 26 4 = 0#4 ∧
        new.extractLsb' 24 2 = (if s.cfg.sjwFieldMode = .literal then 3#2 else 2#2) ∧ new.extractLsb' 23 1 = 0#1 ∧
        new.extractLsb' 20 3 = 1#3 ∧ new.extractLsb' 16 4 = 3#4 ∧ new.extractLsb' 10 6 = 0#6 ∧
        (new.extractLsb' 0 10).toNat + 1 = p ∧
        Effect i [.can i .btr] [readOf s (.can i .btr), writeOf s (.can i .btr) new]
          { internal s i with status := if inexact then 0x01#8 else 0x00#8 } s t) ∧
    (∀ code, btCalc s.cfg.strictBitTiming s.ports.argClock.toNat s.ports.argRate.toNat = .error code →
      ∃ t, exec (.btProgram i) s = .next t ∧ Faulted i code [] s t)

/-- R104, corner case: issuing `BT_PROGRAM` twice with the same arguments leaves the same word as issuing it once. -/
def Obligations.BtProgramTwiceLeavesTheSameWord : Prop :=
  ∀ (i : Inst) (s t : State), exec (.btProgram i) s = .next t →
    ∃ u, exec (.btProgram i) t = .next u ∧ ∀ r, u.image r = t.image r

/-- R109, R108: `SET_TEST_MODE` writes SILM and LBKM as the table gives them, keeps bits 29:0 and reports OK, in every
state. -/
def Obligations.SetTestModeWritesTestBitsOnly : Prop :=
  ∀ (i : Inst) (s : State),
    ∃ (t : State) (new : Word), exec (.setTestMode i) s = .next t ∧ t.image (.can i .btr) = new ∧
      (new.getLsbD 31 = true ↔ s.ports.argMode = 2#2 ∨ s.ports.argMode = 3#2) ∧
      (new.getLsbD 30 = true ↔ s.ports.argMode = 1#2 ∨ s.ports.argMode = 3#2) ∧
      new.extractLsb' 0 30 = (s.image (.can i .btr)).extractLsb' 0 30 ∧
      Effect i [.can i .btr] [readOf s (.can i .btr), writeOf s (.can i .btr) new]
        { internal s i with status := 0x00#8 } s t

/-- R39, R108: after `SET_TEST_MODE` the instance's test mode, read back from BTR, is the one ARG_MODE names; at reset it
is Normal (the spec's own inference, R39). -/
def Obligations.TestModeReadsBackFromBtr : Prop :=
  (∀ (i : Inst) (s : State), ∃ t, exec (.setTestMode i) s = .next t ∧
    testMode t i = (match s.ports.argMode.toNat with
      | 0 => .normal
      | 1 => .loopbackOnly
      | 2 => .silentOnly
      | _ => .silentLoopback)) ∧
  ∀ (i : Inst) (u : ControllerUnspecified) (s : State), s.ctl i = Controller.reset u → testMode s i = .normal

/-- R110 (the spec's own inference): the two BTR commands commute when the `BT_PROGRAM` succeeds: either order leaves the same BTR word, with the
test bits of the one and the timing fields of the other. -/
def Obligations.BtProgramAndSetTestModeCommute : Prop :=
  ∀ (i : Inst) (s : State) (r : Nat × Bool),
    btCalc s.cfg.strictBitTiming s.ports.argClock.toNat s.ports.argRate.toNat = .ok r →
    ∃ t u v w, execTwo (.btProgram i) (.setTestMode i) s = .next t ∧
      execTwo (.setTestMode i) (.btProgram i) s = .next u ∧ exec (.btProgram i) s = .next v ∧
      exec (.setTestMode i) s = .next w ∧ t.image (.can i .btr) = u.image (.can i .btr) ∧
      (t.image (.can i .btr)).extractLsb' 30 2 = (w.image (.can i .btr)).extractLsb' 30 2 ∧
      (t.image (.can i .btr)).extractLsb' 0 30 = (v.image (.can i .btr)).extractLsb' 0 30

/-! ## Filters -/

/-- R124, R129 (R129's "no other" clauses are the spec's own inference): in an admitted configuration, an install below saturation with a fitting identifier completes: bank
`k = BANK_BASE(i) + filterCount[i]` (R120) is list mode, 32-bit, FIFO 0 and active, its words are the match word and 0, no
other bit of the four vectors and no other bank register changes, FINIT is 0 and the other FMR bits are unchanged, the
cursor advances and the status is OK. -/
def Obligations.FltInstallProgramsTheNextBank : Prop :=
  ∀ (i : Inst) (s : State) (k : Fin 28), configurationOk s.cfg = true → (s.ctl i).filterCount < 14 →
    (s.ports.argFmt = 0#1 → s.ports.argId.toNat < 0x800) → k.val = s.cfg.bankBase i + (s.ctl i).filterCount →
    ∃ (t : State) (made : List Access), exec (.fltInstall i) s = .next t ∧
      (∀ n, (t.image (.flt .fm1r)).getLsbD n = if n = k.val then true else (s.image (.flt .fm1r)).getLsbD n) ∧
      (∀ n, (t.image (.flt .fs1r)).getLsbD n = if n = k.val then true else (s.image (.flt .fs1r)).getLsbD n) ∧
      (∀ n, (t.image (.flt .ffa1r)).getLsbD n = if n = k.val then false else (s.image (.flt .ffa1r)).getLsbD n) ∧
      (∀ n, (t.image (.flt .fa1r)).getLsbD n = if n = k.val then true else (s.image (.flt .fa1r)).getLsbD n) ∧
      t.image (.flt (.r1 k)) = filterWord s.ports.argId (if s.ports.argFmt = 1#1 then .extended else .standard) ∧
      t.image (.flt (.r2 k)) = 0x00000000#32 ∧
      (t.image (.flt .fmr)).getLsbD 0 = false ∧
      (t.image (.flt .fmr)).extractLsb' 1 31 = (s.image (.flt .fmr)).extractLsb' 1 31 ∧
      Effect i [.flt .fm1r, .flt .fs1r, .flt .ffa1r, .flt .fa1r, .flt (.r1 k), .flt (.r2 k), .flt .fmr] made
        { internal s i with filterCount := (s.ctl i).filterCount + 1, status := 0x00#8 } s t

/-- R124, R125: the accesses of a successful install, in order, each between the write that sets FINIT and the write that
clears it. -/
def Obligations.FltInstallAccessesInOrder : Prop :=
  ∀ (i : Inst) (s : State) (k : Fin 28), configurationOk s.cfg = true → (s.ctl i).filterCount < 14 →
    (s.ports.argFmt = 0#1 → s.ports.argId.toNat < 0x800) → k.val = s.cfg.bankBase i + (s.ctl i).filterCount →
    let bit : Word := 1#32 <<< k.val
    let on : Word := s.image (.flt .fmr) ||| 1#32
    let off : Word := s.image (.flt .fmr) &&& 0xFFFFFFFE#32
    ∃ t, exec (.fltInstall i) s = .next t ∧
      t.bus = s.bus ++
        [readOf s (.flt .fmr), writeOf s (.flt .fmr) on,
          readOf s (.flt .fs1r), writeOf s (.flt .fs1r) (s.image (.flt .fs1r) ||| bit),
          readOf s (.flt .fm1r), writeOf s (.flt .fm1r) (s.image (.flt .fm1r) ||| bit),
          writeOf s (.flt (.r1 k)) (filterWord s.ports.argId (if s.ports.argFmt = 1#1 then .extended else .standard)),
          writeOf s (.flt (.r2 k)) 0x00000000#32,
          readOf s (.flt .ffa1r), writeOf s (.flt .ffa1r) (s.image (.flt .ffa1r) &&& ~~~bit),
          readOf s (.flt .fa1r), writeOf s (.flt .fa1r) (s.image (.flt .fa1r) ||| bit),
          .read (addrOf s (.flt .fmr)) on, writeOf s (.flt .fmr) off]

/-- R126: a saturated install reads and writes no register; only the status changes, to NOOP_SATURATED. It comes before
the identifier check (R174). -/
def Obligations.SaturatedInstallTouchesNothing : Prop :=
  ∀ (i : Inst) (s : State), (s.ctl i).filterCount ≥ 14 →
    ∃ t, exec (.fltInstall i) s = .next t ∧ Effect i [] [] { internal s i with status := 0x02#8 } s t

/-- R128: below saturation, a Standard identifier of 0x800 or more faults with FLT_INVALID_ID before any access; the
cursor is unchanged. -/
def Obligations.InvalidFilterIdTouchesNothing : Prop :=
  ∀ (i : Inst) (s : State), (s.ctl i).filterCount < 14 → s.ports.argFmt = 0#1 → s.ports.argId.toNat ≥ 0x800 →
    ∃ t, exec (.fltInstall i) s = .next t ∧ Faulted i .fltInvalidId [] s t

/-- From R127: a cursor changes only through a successful install of its own instance, which adds 1. -/
def Obligations.FilterCountChangesOnlyBySuccessfulInstall : Prop :=
  ∀ (a : Instr) (s t : State) (j : Inst), exec a s = .next t →
    (t.ctl j).filterCount = (s.ctl j).filterCount ∨
      (a = .fltInstall j ∧ (s.ctl j).filterCount < 14 ∧ (t.ctl j).filterCount = (s.ctl j).filterCount + 1 ∧
        (t.ctl j).status = 0x00#8)

/-- R42, R130: no command changes any per-instance element of the other instance, and of the filter unit it changes only
bits and banks of its own instance's range `BANK_BASE(i) .. BANK_BASE(i) + 13`, plus FINIT. -/
def Obligations.CommandsLeaveTheOtherInstanceAlone : Prop :=
  ∀ (a : Instr) (s t : State), configurationOk s.cfg = true → exec a s = .next t →
    t.ctl a.inst.other = s.ctl a.inst.other ∧
    (∀ n, n < s.cfg.bankBase a.inst ∨ s.cfg.bankBase a.inst + 13 < n →
      t.filter.fm1r.getLsbD n = s.filter.fm1r.getLsbD n ∧ t.filter.fs1r.getLsbD n = s.filter.fs1r.getLsbD n ∧
      t.filter.ffa1r.getLsbD n = s.filter.ffa1r.getLsbD n ∧ t.filter.fa1r.getLsbD n = s.filter.fa1r.getLsbD n) ∧
    (∀ b : Fin 28, b.val < s.cfg.bankBase a.inst ∨ s.cfg.bankBase a.inst + 13 < b.val →
      t.filter.banks[b] = s.filter.banks[b]) ∧
    t.filter.fmr.extractLsb' 1 31 = s.filter.fmr.extractLsb' 1 31

/-! ## The frame codec -/

/-- R70: the fields of an identifier word, for both formats and both frame types. -/
def Obligations.IdentifierWordLayout : Prop :=
  ∀ (id : BitVec 29) (type : FrameType),
    (let w := encodeIdWord id .standard type
     w.extractLsb' 21 11 = id.extractLsb' 0 11 ∧ w.extractLsb' 2 19 = 0#19 ∧
       (w.getLsbD 1 = true ↔ type = .remote) ∧ w.getLsbD 0 = false) ∧
    (let w := encodeIdWord id .extended type
     w.extractLsb' 3 29 = id ∧ w.getLsbD 2 = true ∧ (w.getLsbD 1 = true ↔ type = .remote) ∧ w.getLsbD 0 = false)

/-- R144, R71 (the spec's own inference): an identifier that fits its format decodes to itself in the same format and frame type, small Extended
values included, whatever bits 20:3 of a Standard word and bit 0 hold. -/
def Obligations.IdentifierAndFormatArePreserved : Prop :=
  ∀ (id : BitVec 29) (fmt : Format) (type : FrameType) (w : Word), (fmt = .standard → id.toNat ≤ 0x7FF) →
    (fmt = .standard →
      w.extractLsb' 21 11 = (encodeIdWord id fmt type).extractLsb' 21 11 ∧
        w.extractLsb' 1 2 = (encodeIdWord id fmt type).extractLsb' 1 2) →
    (fmt = .extended → w.extractLsb' 1 31 = (encodeIdWord id fmt type).extractLsb' 1 31) →
    decodeIdWord w = (id, fmt, type)

/-- R50, R73: payload byte n of the low word is bits 8n+7:8n for n = 0 to 3, byte n of the high word bits
8(n-4)+7:8(n-4) for n = 4 to 7, and unpacking inverts packing in both directions. -/
def Obligations.PayloadBytesAreLittleEndian : Prop :=
  (∀ (p : Vector Byte 8) (n : Nat) (h : n < 4),
    (packLow p).extractLsb' (8 * n) 8 = p[n] ∧ (packHigh p).extractLsb' (8 * n) 8 = p[n + 4]) ∧
  (∀ p : Vector Byte 8, unpack (packLow p) (packHigh p) = p) ∧
  ∀ lo hi : Word, packLow (unpack lo hi) = lo ∧ packHigh (unpack lo hi) = hi

/-- R140: validation reports the identifier before the length, and passes exactly the valid Messages. -/
def Obligations.ValidationReportsFirstFailingCheck : Prop :=
  ∀ m : Message,
    (validateMsg m = .error .msgInvalidId ↔ m.identifierFits = false) ∧
    (validateMsg m = .error .msgInvalidLength ↔ m.identifierFits = true ∧ m.length.toNat > 8) ∧
    (validateMsg m = .ok () ↔ m.valid = true)

/-- R142: an entry is refused exactly for a DLC above 8; every Message decoded is valid (the spec's own inference), has the DLC as its length and
copies all eight bytes. -/
def Obligations.DecodedMessagesAreValid : Prop :=
  ∀ ri rdt rdl rdh : Word,
    (decodeEntry ri rdt rdl rdh = .error .rxDlcRange ↔ rdt.toNat % 16 > 8) ∧
    (rdt.toNat % 16 ≤ 8 → ∃ m, decodeEntry ri rdt rdl rdh = .ok m ∧ m.valid = true ∧
      m.length.toNat = rdt.toNat % 16 ∧ m.payload = unpack rdl rdh ∧
      (m.identifier, m.identifierFormat, m.frameType) = decodeIdWord ri)

/-- R143 (the spec's own inference): over the register path, decoding inverts encoding for every valid Message, whatever bit 0 of the identifier word
and bits 31:4 of the length word; over a bus, where bytes past the length may differ, the result is equivalent. -/
def Obligations.CodecRoundTripsEveryValidMessage : Prop :=
  ∀ (m : Message) (ri rdt : Word), m.valid = true →
    ri.extractLsb' 1 31 = (encodeMsg m).ti.extractLsb' 1 31 →
    rdt.extractLsb' 0 4 = (encodeMsg m).tdt.extractLsb' 0 4 →
    decodeEntry ri rdt (encodeMsg m).tdl (encodeMsg m).tdh = .ok m ∧
    ∀ rdl rdh : Word,
      (∀ (n : Nat) (h : n < 8), n < m.length.toNat → (unpack rdl rdh)[n] = m.payload[n]) →
      ∃ m', decodeEntry ri rdt rdl rdh = .ok m' ∧ m'.Equivalent m

/-! ## Transmission -/

/-- R146, R147, R148: a valid Message and a free mailbox: `TX_LOAD` completes with the four mailbox words, the clearing
write before the identifier write, `txLoaded` set and status OK, and nothing else changed. That these five writes are all its
accesses, so that the check of `mb0Empty` (R38, R209) is none, is the model's choice (log 18, DESIGN CHOICE). -/
def Obligations.TxLoadWritesTheMailbox : Prop :=
  ∀ (i : Inst) (s : State), s.ports.argMsg.valid = true → (s.ctl i).mb0Empty = true →
    ∃ t, exec (.txLoad i) s = .next t ∧
      t.image (.can i .ti0r) =
        encodeIdWord s.ports.argMsg.identifier s.ports.argMsg.identifierFormat s.ports.argMsg.frameType ∧
      (t.image (.can i .tdt0r)).toNat = s.ports.argMsg.length.toNat ∧
      t.image (.can i .tdl0r) = packLow s.ports.argMsg.payload ∧
      t.image (.can i .tdh0r) = packHigh s.ports.argMsg.payload ∧
      Effect i [.can i .ti0r, .can i .tdt0r, .can i .tdl0r, .can i .tdh0r]
        [writeOf s (.can i .ti0r) 0x00000000#32, writeOf s (.can i .ti0r) (t.image (.can i .ti0r)),
          writeOf s (.can i .tdt0r) (t.image (.can i .tdt0r)), writeOf s (.can i .tdl0r) (t.image (.can i .tdl0r)),
          writeOf s (.can i .tdh0r) (t.image (.can i .tdh0r))]
        { internal s i with txLoaded := true, status := 0x00#8 } s t

/-- R140, R147, R174: an invalid Message faults with the identifier check first and the length check second, before the
model check of the mailbox, and no register is accessed. -/
def Obligations.TxLoadRejectsInvalidMessages : Prop :=
  ∀ (i : Inst) (s : State),
    (s.ports.argMsg.identifierFits = false →
      ∃ t, exec (.txLoad i) s = .next t ∧ Faulted i .msgInvalidId [] s t) ∧
    (s.ports.argMsg.identifierFits = true → s.ports.argMsg.length.toNat > 8 →
      ∃ t, exec (.txLoad i) s = .next t ∧ Faulted i .msgInvalidLength [] s t)

/-- From R209 and R176: a valid load into a mailbox that is not free marks MF_TX_BUSY and performs none of the command's
writes, status and latch included. The model's choices: the check is no access (log 18), and a reason marked before is
replaced (log 8). -/
def Obligations.BusyMailboxIsAModelFault : Prop :=
  ∀ (i : Inst) (s : State), s.ports.argMsg.valid = true → (s.ctl i).mb0Empty = false →
    exec (.txLoad i) s = .next { s with modelFault := some .txBusy }

/-- R150: a loaded mailbox: `TX_REQUEST` completes with TXRQ set by read-modify-write and bits 31:1 kept, `txLoaded`
cleared and status OK. -/
def Obligations.TxRequestSetsTheRequestBit : Prop :=
  ∀ (i : Inst) (s : State), (s.ctl i).txLoaded = true →
    ∃ t, exec (.txRequest i) s = .next t ∧ t.image (.can i .ti0r) = s.image (.can i .ti0r) ||| 1#32 ∧
      Effect i [.can i .ti0r] [readOf s (.can i .ti0r), writeOf s (.can i .ti0r) (t.image (.can i .ti0r))]
        { internal s i with txLoaded := false, status := 0x00#8 } s t

/-- From R210 and R176: a request with nothing loaded marks MF_TX_NOT_LOADED and changes nothing else. The model's choices:
the check is no access (log 18), and a reason marked before is replaced (log 8). -/
def Obligations.RequestWithoutLoadIsAModelFault : Prop :=
  ∀ (i : Inst) (s : State), (s.ctl i).txLoaded = false →
    exec (.txRequest i) s = .next { s with modelFault := some .txNotLoaded }

/-! ## Reception -/

/-- R155: a pending entry with DLC up to 8: `RX_DECODE` completes with the decoded Message in `pendingRx`, `rxHeld` set and
status OK, after five reads in order and no write. -/
def Obligations.RxDecodeStoresThePendingFrame : Prop :=
  ∀ (i : Inst) (s : State), (s.image (.can i .rf0r)).extractLsb' 0 2 ≠ 0#2 →
    (s.image (.can i .rdt0r)).toNat % 16 ≤ 8 →
    ∃ t m, exec (.rxDecode i) s = .next t ∧
      (m.identifier, m.identifierFormat, m.frameType) = decodeIdWord (s.image (.can i .ri0r)) ∧
      m.length.toNat = (s.image (.can i .rdt0r)).toNat % 16 ∧
      m.payload = unpack (s.image (.can i .rdl0r)) (s.image (.can i .rdh0r)) ∧
      Effect i []
        [readOf s (.can i .rf0r), readOf s (.can i .ri0r), readOf s (.can i .rdt0r), readOf s (.can i .rdl0r),
          readOf s (.can i .rdh0r)]
        { internal s i with pendingRx := some m, rxHeld := true, status := 0x00#8 } s t

/-- R155, R173, R174: an empty FIFO faults with RX_EMPTY whatever the DLC, after the one read of RF0R; a pending entry
with DLC 9 to 15 faults with RX_DLC_RANGE after the five reads. `pendingRx` and `rxHeld` are unchanged. -/
def Obligations.RxDecodeFaultsOnEmptyOrBadLength : Prop :=
  ∀ (i : Inst) (s : State),
    ((s.image (.can i .rf0r)).extractLsb' 0 2 = 0#2 →
      ∃ t, exec (.rxDecode i) s = .next t ∧ Faulted i .rxEmpty [readOf s (.can i .rf0r)] s t) ∧
    ((s.image (.can i .rf0r)).extractLsb' 0 2 ≠ 0#2 → (s.image (.can i .rdt0r)).toNat % 16 > 8 →
      ∃ t, exec (.rxDecode i) s = .next t ∧
        Faulted i .rxDlcRange
          [readOf s (.can i .rf0r), readOf s (.can i .ri0r), readOf s (.can i .rdt0r), readOf s (.can i .rdl0r),
            readOf s (.can i .rdh0r)] s t)

/-- R155, corner case, with R54: a repeated `RX_DECODE` decodes the same entry again: the internal state of both instances,
every register image, the configuration, ports, inbox and model fault stay as the first left them, and only reads are added to
the record of accesses. -/
def Obligations.RxDecodeMayBeRepeated : Prop :=
  ∀ (i : Inst) (s t : State), exec (.rxDecode i) s = .next t →
    ∃ u made, exec (.rxDecode i) t = .next u ∧ Effect i [] made (internal t i) t u ∧
      ∀ x ∈ made, ∃ r, x = readOf t r

/-- R156: `pendingRx[j]` changes only by a successful `RX_DECODE` of instance j, which writes the whole decoded Message
and sets `rxHeld[j]`. -/
def Obligations.PendingRxIsWrittenOnlyByRxDecode : Prop :=
  ∀ (a : Instr) (s t : State) (j : Inst), exec a s = .next t → (t.ctl j).pendingRx ≠ (s.ctl j).pendingRx →
    a = .rxDecode j ∧ (t.ctl j).status = 0x00#8 ∧ (t.ctl j).rxHeld = true ∧
      ∃ m, decodeEntry (s.image (.can j .ri0r)) (s.image (.can j .rdt0r)) (s.image (.can j .rdl0r))
        (s.image (.can j .rdh0r)) = .ok m ∧ (t.ctl j).pendingRx = some m

/-- From R159: `RX_RELEASE` completes in every state: it writes the word 0x0000_0020 to RF0R, leaves FULL0 and FOVR0 as they
were, clears `rxHeld` and reports OK. That the image then shows RFOM0 = 1, a peripheral-owned bit (R55), is the model's
inference (log 5, DEDUCED). -/
def Obligations.RxReleaseWritesTheReleaseBit : Prop :=
  ∀ (i : Inst) (s : State),
    ∃ t, exec (.rxRelease i) s = .next t ∧ (t.image (.can i .rf0r)).getLsbD 5 = true ∧
      (t.image (.can i .rf0r)).extractLsb' 3 2 = (s.image (.can i .rf0r)).extractLsb' 3 2 ∧
      Effect i [.can i .rf0r] [writeOf s (.can i .rf0r) 0x00000020#32]
        { internal s i with rxHeld := false, status := 0x00#8 } s t

/-- DEDUCED from R36 and R55 (log 5): after a release the RF0R image has RFOM0 = 1, the pending count FMP0 is as the
peripheral last showed it, and every reserved bit is 0. -/
def Obligations.ReleaseKeepsThePendingCount : Prop :=
  ∀ (i : Inst) (s : State), ∃ t, exec (.rxRelease i) s = .next t ∧
    (t.image (.can i .rf0r)).getLsbD 5 = true ∧
    (t.image (.can i .rf0r)).extractLsb' 0 2 = (s.image (.can i .rf0r)).extractLsb' 0 2 ∧
    t.image (.can i .rf0r) &&& 0xFFFFFFC4#32 = 0#32

/-- R160 (the spec's own inference), R88: the receive handler releases exactly once each entry it decodes, or refuses for its length, and does not
release when the FIFO is empty. -/
def Obligations.HandlerReleasesEachEntryOnce : Prop :=
  ∀ (i : Inst) (s : State),
    let empty : Bool := (s.image (.can i .rf0r)).extractLsb' 0 2 = 0#2
    ∃ t, pseudoReceive i s = .next t ∧
      t.bus = s.bus ++ (if empty then [readOf s (.can i .rf0r)]
        else [readOf s (.can i .rf0r), readOf s (.can i .ri0r), readOf s (.can i .rdt0r), readOf s (.can i .rdl0r),
          readOf s (.can i .rdh0r), writeOf s (.can i .rf0r) 0x00000020#32]) ∧
      (empty = false → (t.ctl i).rxHeld = false) ∧
      (empty = true → internal t i = { internal s i with status := 0x30#8, faultLatch := true })

/-- From R143 (a law the spec marks as its own inference), R146, R150 and R155 together (95_test_vectors P1, P2): a valid Message sent on one instance and shown by the
peripheral at the FIFO of any instance is the Message the receive handler delivers there, equal in all five fields. -/
def Obligations.SentMessagesAreReceivedUnchanged : Prop :=
  ∀ (i j : Inst) (m : Message) (s : State), m.valid = true → (s.ctl i).mb0Empty = true →
    ∃ t, pseudoSend i m s = .next t ∧ (t.image (.can i .ti0r)).getLsbD 0 = true ∧ (t.ctl i).txLoaded = false ∧
      ∀ p : PeripheralInputs, p.fmp0 ≠ 0#2 →
        p.ri0r.extractLsb' 1 31 = (t.image (.can i .ti0r)).extractLsb' 1 31 →
        p.rdt0r.extractLsb' 0 4 = (t.image (.can i .tdt0r)).extractLsb' 0 4 →
        p.rdl0r = t.image (.can i .tdl0r) → p.rdh0r = t.image (.can i .tdh0r) →
        ∃ u, pseudoReceive j (showPeripheral j p t) = .next u ∧ (u.ctl j).pendingRx = some m ∧
          (u.ctl j).status = 0x00#8

/-- R87: each assembler line, presented as its two events, takes two steps, which come to the line's command on the port
values its operands set: ARG_CLOCK and ARG_RATE; ARG_MODE = 0, 1, 2 or 3; ARG_ID and ARG_FMT = 0 or 1; ARG_MSG, its payload
padded with 0x00 up to 8 bytes. Every other port is as before. A list of more than 8 bytes is no form of R87 (log 20). The
events are the model's own (log 2). -/
def Obligations.AssembledLinesRunTheirCommand : Prop :=
  ∀ (i : Inst) (s : State) (rest : List Event), configurationOk s.cfg = true →
    let comesTo : AsmLine → Instr → Ports → Prop := fun l a p =>
      s.inbox = assemble l s.ports ++ rest →
        ∃ s', step s = .next s' ∧ step s' = exec a { s with ports := p, inbox := rest }
    (∀ clock rate, comesTo (.btProgram i clock rate) (.btProgram i)
      { s.ports with argClock := clock, argRate := rate }) ∧
    comesTo (.setTestMode i .normal) (.setTestMode i) { s.ports with argMode := 0#2 } ∧
    comesTo (.setTestMode i .loopbackOnly) (.setTestMode i) { s.ports with argMode := 1#2 } ∧
    comesTo (.setTestMode i .silentOnly) (.setTestMode i) { s.ports with argMode := 2#2 } ∧
    comesTo (.setTestMode i .silentLoopback) (.setTestMode i) { s.ports with argMode := 3#2 } ∧
    (∀ id, comesTo (.fltInstall i id .standard) (.fltInstall i) { s.ports with argId := id, argFmt := 0#1 }) ∧
    (∀ id, comesTo (.fltInstall i id .extended) (.fltInstall i) { s.ports with argId := id, argFmt := 1#1 }) ∧
    (∀ fmt id type len (bytes : List Byte) (payload : Vector Byte 8), bytes.length ≤ 8 →
      payload.toList = bytes ++ List.replicate (8 - bytes.length) 0x00#8 →
      comesTo (.txLoad i fmt id type len bytes) (.txLoad i)
        { s.ports with argMsg := ⟨id, fmt, type, len, payload⟩ }) ∧
    comesTo (.txRequest i) (.txRequest i) s.ports ∧
    comesTo (.rxDecode i) (.rxDecode i) s.ports ∧
    comesTo (.rxRelease i) (.rxRelease i) s.ports

/-- R81, R82: a command ignores every port it does not name: with other values on the other ports it does the same. -/
def Obligations.CommandsIgnoreUnnamedPorts : Prop :=
  ∀ (a : Instr) (s : State) (p : Ports), NamedPortsAgree a s.ports p →
    ∃ t, exec a s = .next t ∧ exec a { s with ports := p } = .next { t with ports := p }

/-! ## Status, faults and model faults -/

/-- R170: the numbers of the thirteen codes, and which of them are faults. -/
def Obligations.StatusCodesAreNumberedAsListed : Prop :=
  StatusCode.all.map (fun c => (c.code.toNat, c.isFault)) =
    [(0x00, false), (0x01, false), (0x02, false), (0x10, true), (0x11, true), (0x12, true), (0x13, true),
      (0x20, true), (0x21, true), (0x22, true), (0x30, true), (0x31, true), (0x3F, true)] ∧
  ∀ c : StatusCode, c ∈ StatusCode.all

/-- R214, R171: every command completes in one step in every state, and either writes a code of R170 to the status of its
own instance or ends by a model fault with nothing else changed; the other instance's status is never written. -/
def Obligations.EveryCommandCompletesWithOneStatus : Prop :=
  ∀ (a : Instr) (s : State), ∃ t, exec a s = .next t ∧
    (t.ctl a.inst.other).status = (s.ctl a.inst.other).status ∧
    ((∃ c : StatusCode, (t.ctl a.inst).status = c.code ∧ t.modelFault = s.modelFault) ∨
      ∃ r : ModelFault, t = { s with modelFault := some r })

/-- R173: every fault is precise: with no model fault (R176), a command that ends with a fault code changes no register
image and nothing else but the status and latch of its instance; the accesses it made are reads. -/
def Obligations.FaultsArePrecise : Prop :=
  ∀ (a : Instr) (s t : State) (c : StatusCode), exec a s = .next t → Clean t → c.isFault = true →
    (t.ctl a.inst).status = c.code →
    ∃ made, Faulted a.inst c made s t ∧ ∀ x ∈ made, ∃ r, x = readOf s r

/-- R24, R172: with no model fault (R176), a command leaves the latch set exactly if it was set before or the code it
wrote is a fault; OK_INEXACT and NOOP_SATURATED do not set it. -/
def Obligations.LatchIsSetExactlyByFaultCodes : Prop :=
  ∀ (a : Instr) (s t : State), exec a s = .next t → Clean t →
    ((t.ctl a.inst).faultLatch = true ↔ (s.ctl a.inst).faultLatch = true ∨ isFaultCode (t.ctl a.inst).status = true)

/-- R24, R178: a latch that is set stays set over every step but one that takes the reset signal, which clears it. -/
def Obligations.OnlyResetClearsTheFaultLatch : Prop :=
  ∀ (s t : State) (i : Inst), step s = .next t → (s.ctl i).faultLatch = true →
    ((t.ctl i).faultLatch = true ↔ ∀ (u : Unspecified) (rest : List Event), s.inbox ≠ .reset u :: rest)

/-- R28, R176: `modelFault` is `none` at launch, and once a reason is marked no step clears it, reset included. -/
def Obligations.ModelFaultIsNeverCleared : Prop :=
  State.reset.modelFault = none ∧
    ∀ s t : State, step s = .next t → s.modelFault ≠ none → t.modelFault ≠ none

/-- R177, R209, R210: a command marks a model fault only as the table lists: `TX_LOAD` of a valid Message into a mailbox
that is not free, and `TX_REQUEST` with nothing loaded. -/
def Obligations.ModelFaultsAriseOnlyAsListed : Prop :=
  ∀ (a : Instr) (s t : State), exec a s = .next t → t.modelFault ≠ s.modelFault →
    (∃ i, a = .txLoad i ∧ s.ports.argMsg.valid = true ∧ (s.ctl i).mb0Empty = false ∧ t.modelFault = some .txBusy) ∨
    (∃ i, a = .txRequest i ∧ (s.ctl i).txLoaded = false ∧ t.modelFault = some .txNotLoaded)

/-- R27: a read of `pendingRx[i]` faults while nothing has been decoded, and otherwise the observation is allowed and
changes nothing. That the read is an event taken by a step is the model's choice (log 2). -/
def Obligations.ReadingUnwrittenPendingRxFaults : Prop :=
  ∀ (s : State) (i : Inst) (rest : List Event), configurationOk s.cfg = true →
    s.inbox = .observe (.pendingRx i) :: rest →
    ((s.ctl i).pendingRx = none → step s = .fault (.pendingRxUnwritten i)) ∧
    ∀ m, (s.ctl i).pendingRx = some m →
      observe (.pendingRx i) s = .next (.message m) ∧ step s = .next { s with inbox := rest }

/-! ## Reset and the environment -/

/-- R200, R201: the reset signal gives every element the table's value, the unspecified ones (R203) arbitrary values of
the event, and leaves `modelFault` as it was (R28). That the signal is an event taken by a step is the model's choice
(log 2). -/
def Obligations.ResetGivesEveryElementItsTableValue : Prop :=
  ∀ (s : State) (u : Unspecified) (rest : List Event), configurationOk s.cfg = true →
    s.inbox = .reset u :: rest →
    ∃ t, step s = .next t ∧
      (∀ i : Inst, (t.ctl i).filterCount = 0 ∧ (t.ctl i).status = 0x00#8 ∧ (t.ctl i).faultLatch = false ∧
        (t.ctl i).txLoaded = false ∧ (t.ctl i).rxHeld = false ∧ (t.ctl i).pendingRx = none ∧
        (t.ctl i).btr = 0x01230000#32 ∧ testMode t i = .normal ∧ (t.ctl i).ti0r.getLsbD 0 = false ∧
        (t.ctl i).rf0r = 0x00000000#32) ∧
      t.filter.fmr = 0x2A1C0E01#32 ∧ t.filter.fm1r = 0#32 ∧ t.filter.fs1r = 0#32 ∧ t.filter.ffa1r = 0#32 ∧
      t.filter.fa1r = 0#32 ∧ t.modelFault = s.modelFault ∧ t.can1.ti0r.extractLsb' 1 31 = u.can1.ti0rHigh ∧
      t.can2.ti0r.extractLsb' 1 31 = u.can2.ti0rHigh ∧ t.filter.banks = u.banks ∧
      (t.can1.tdt0r = u.can1.tdt0r ∧ t.can1.tdl0r = u.can1.tdl0r ∧ t.can1.tdh0r = u.can1.tdh0r ∧
        t.can1.ri0r = u.can1.ri0r ∧ t.can1.rdt0r = u.can1.rdt0r ∧ t.can1.rdl0r = u.can1.rdl0r ∧
        t.can1.rdh0r = u.can1.rdh0r ∧ t.can1.mb0Empty = u.can1.mb0Empty) ∧
      t.can2.tdt0r = u.can2.tdt0r ∧ t.can2.tdl0r = u.can2.tdl0r ∧ t.can2.tdh0r = u.can2.tdh0r ∧
      t.can2.ri0r = u.can2.ri0r ∧ t.can2.rdt0r = u.can2.rdt0r ∧ t.can2.rdl0r = u.can2.rdl0r ∧
      t.can2.rdh0r = u.can2.rdh0r ∧ t.can2.mb0Empty = u.can2.mb0Empty

/-- R55, R38: a change by the peripheral reaches only its own bits of its own instance: TXRQ, FMP0, FULL0, FOVR0, RFOM0,
RI0R to RDH0R and `mb0Empty`, each taking the value shown. That it is a step of its own is the model's choice (log 2). -/
def Obligations.PeripheralChangesOnlyItsOwnBits : Prop :=
  ∀ (i : Inst) (p : PeripheralInputs) (s : State),
    let t := showPeripheral i p s
    internal t i = { internal s i with mb0Empty := p.mb0Empty } ∧
    t.ctl i.other = s.ctl i.other ∧ t.filter = s.filter ∧ OutsideKept s t ∧ t.bus = s.bus ∧
    ImagesKeptBut [.can i .ti0r, .can i .rf0r, .can i .ri0r, .can i .rdt0r, .can i .rdl0r, .can i .rdh0r] s t ∧
    (∀ n, (t.image (.can i .ti0r)).getLsbD n = if n = 0 then p.txrq else (s.image (.can i .ti0r)).getLsbD n) ∧
    (t.image (.can i .rf0r)).extractLsb' 0 2 = p.fmp0 ∧ (t.image (.can i .rf0r)).getLsbD 3 = p.full0 ∧
    (t.image (.can i .rf0r)).getLsbD 4 = p.fovr0 ∧ (t.image (.can i .rf0r)).getLsbD 5 = p.rfom0 ∧
    (t.image (.can i .rf0r)).getLsbD 2 = (s.image (.can i .rf0r)).getLsbD 2 ∧
    (t.image (.can i .rf0r)).extractLsb' 6 26 = (s.image (.can i .rf0r)).extractLsb' 6 26 ∧
    t.image (.can i .ri0r) = p.ri0r ∧ t.image (.can i .rdt0r) = p.rdt0r ∧ t.image (.can i .rdl0r) = p.rdl0r ∧
    t.image (.can i .rdh0r) = p.rdh0r

/-! ## Whole-machine results -/

/-- From R62 (the spec's own inference) and R180: a receive-handler command and an application command commute, on the same
or different instances, but for the status of an instance both address and the record of accesses: both orders complete with
the same register images and the same internal state. Left out: the record, whose order differs, and, on one instance,
`status`, which the later of the two writes (R23); when the instances differ the statuses agree too. -/
def Obligations.ReceiveAndApplicationCommandsCommute : Prop :=
  ∀ (a b : Instr) (s : State), a.isReceive = false → b.isReceive = true →
    ∃ t u, execTwo a b s = .next t ∧ execTwo b a s = .next u ∧ SameButStatus t u ∧
      (a.inst ≠ b.inst → ∀ i : Inst, (t.ctl i).status = (u.ctl i).status)

/-- R203 (the spec's own inference): no block result depends on an unspecified value. Two states that agree wherever their own
state says that the spec specifies a value (`StatesAgree`: TXRQ always, the mailbox words while loaded, the FIFO entry while
FMP0 > 0, the banks installed, and everything that has a reset value) step to outcomes that agree there, accesses made
included. And a register equal in both states before the step is equal after it: so a word the block has written stays
specified, a mailbox word after its request and an installed bank among them. -/
def Obligations.UnspecifiedValuesNeverReachAResult : Prop :=
  ∀ s t : State, StatesAgree s t →
    OutcomesAgree (step s) (step t) ∧
    ∀ u v : State, step s = .next u → step t = .next v → ∀ r : Reg, s.image r = t.image r → u.image r = v.image r

/-- R203 with R201: the states after a reset with any two choices of unspecified values, the input `mb0Empty` apart, agree
wherever the spec specifies a value. -/
def Obligations.ResetStatesAgreeWhereSpecified : Prop :=
  ∀ (s : State) (u v : Unspecified), u.can1.mb0Empty = v.can1.mb0Empty → u.can2.mb0Empty = v.can2.mb0Empty →
    StatesAgree (applyReset u s) (applyReset v s)

/-- R22, R29, R33, R34, R36, R142, R170: the invariant of the block holds at `State.reset`. -/
def Obligations.ResetMeetsTheBlockInvariant : Prop :=
  BlockInv State.reset

/-- R22, R29, R33, R34, R36, R142, R170: every step, whatever event it takes, keeps the invariant of the block: cursors at
most 14, statuses codes of R170, a fault code implies the latch, decoded Messages valid, a loaded mailbox holding a valid
Message, and the reserved bits of BTR, RF0R, FMR and the filter vectors unchanged. -/
def Obligations.EveryStepKeepsTheBlockInvariant : Prop :=
  ∀ s t : State, BlockInv s → step s = .next t → BlockInv t

/-- R120, R129, R213: at `State.reset` no bank is installed, and the filter invariant holds. -/
def Obligations.ResetMeetsTheFilterInvariant : Prop :=
  FilterInv State.reset

/-- R120, R127, R129, R130, R132, R208, R213: every step keeps the filter unit holding exactly the banks the two cursors
count: a bank is active, 32-bit and in list mode exactly if it is installed, every bank routes to FIFO 0, an installed
bank holds a match word and 0, and FINIT is 0 exactly if some install has run. -/
def Obligations.EveryStepKeepsTheFilterInvariant : Prop :=
  ∀ s t : State, FilterInv s → step s = .next t → FilterInv t
end

