-- ==== Sys2Proof/Laws/State.lean ====
section
/-! SUPPORT. What each update of the state leaves in each field: the small lemmas that keep later proofs from unfolding a
record update. -/

namespace Sys2Proof

@[simp] theorem Inst.other_ne (i : Inst) : i.other ≠ i := by cases i <;> decide

@[simp] theorem Inst.ne_other (i : Inst) : i ≠ i.other := by cases i <;> decide

@[simp] theorem Inst.other_other (i : Inst) : i.other.other = i := by cases i <;> rfl

theorem Inst.eq_or_other (i j : Inst) : j = i ∨ j = i.other := by cases i <;> cases j <;> decide

namespace Machine

/-! ### One instance -/

theorem State.ctl_mapCtl (s : State) (i j : Inst) (f : Controller → Controller) :
    (s.mapCtl i f).ctl j = if j = i then f (s.ctl j) else s.ctl j := by
  cases i <;> cases j <;> rfl

@[simp] theorem State.ctl_mapCtl_same (s : State) (i : Inst) (f : Controller → Controller) :
    (s.mapCtl i f).ctl i = f (s.ctl i) := by cases i <;> rfl

@[simp] theorem State.ctl_mapCtl_other (s : State) (i : Inst) (f : Controller → Controller) :
    (s.mapCtl i f).ctl i.other = s.ctl i.other := by cases i <;> rfl

@[simp] theorem State.mapCtl_cfg (s : State) (i : Inst) (f : Controller → Controller) :
    (s.mapCtl i f).cfg = s.cfg := by cases i <;> rfl

@[simp] theorem State.mapCtl_filter (s : State) (i : Inst) (f : Controller → Controller) :
    (s.mapCtl i f).filter = s.filter := by cases i <;> rfl

@[simp] theorem State.mapCtl_modelFault (s : State) (i : Inst) (f : Controller → Controller) :
    (s.mapCtl i f).modelFault = s.modelFault := by cases i <;> rfl

@[simp] theorem State.mapCtl_ports (s : State) (i : Inst) (f : Controller → Controller) :
    (s.mapCtl i f).ports = s.ports := by cases i <;> rfl

@[simp] theorem State.mapCtl_inbox (s : State) (i : Inst) (f : Controller → Controller) :
    (s.mapCtl i f).inbox = s.inbox := by cases i <;> rfl

@[simp] theorem State.mapCtl_bus (s : State) (i : Inst) (f : Controller → Controller) :
    (s.mapCtl i f).bus = s.bus := by cases i <;> rfl

/-! ### The record of accesses -/

@[simp] theorem State.record_ctl (s : State) (a : Access) (i : Inst) : (s.record a).ctl i = s.ctl i := by
  cases i <;> rfl

@[simp] theorem State.record_cfg (s : State) (a : Access) : (s.record a).cfg = s.cfg := rfl
@[simp] theorem State.record_can1 (s : State) (a : Access) : (s.record a).can1 = s.can1 := rfl
@[simp] theorem State.record_can2 (s : State) (a : Access) : (s.record a).can2 = s.can2 := rfl
@[simp] theorem State.record_filter (s : State) (a : Access) : (s.record a).filter = s.filter := rfl
@[simp] theorem State.record_modelFault (s : State) (a : Access) : (s.record a).modelFault = s.modelFault := rfl
@[simp] theorem State.record_ports (s : State) (a : Access) : (s.record a).ports = s.ports := rfl
@[simp] theorem State.record_inbox (s : State) (a : Access) : (s.record a).inbox = s.inbox := rfl
@[simp] theorem State.record_bus (s : State) (a : Access) : (s.record a).bus = s.bus ++ [a] := rfl

@[simp] theorem State.record_image (s : State) (a : Access) (r : Reg) : (s.record a).image r = s.image r := by
  cases r with
  | can i q => simp [State.image]
  | flt q => rfl

/-! ### A register store -/

@[simp] theorem Controller.store_filterCount (c : Controller) (r : CanReg) (v : Word) :
    (c.store r v).filterCount = c.filterCount := by cases r <;> rfl
@[simp] theorem Controller.store_status (c : Controller) (r : CanReg) (v : Word) :
    (c.store r v).status = c.status := by cases r <;> rfl
@[simp] theorem Controller.store_faultLatch (c : Controller) (r : CanReg) (v : Word) :
    (c.store r v).faultLatch = c.faultLatch := by cases r <;> rfl
@[simp] theorem Controller.store_txLoaded (c : Controller) (r : CanReg) (v : Word) :
    (c.store r v).txLoaded = c.txLoaded := by cases r <;> rfl
@[simp] theorem Controller.store_rxHeld (c : Controller) (r : CanReg) (v : Word) :
    (c.store r v).rxHeld = c.rxHeld := by cases r <;> rfl
@[simp] theorem Controller.store_pendingRx (c : Controller) (r : CanReg) (v : Word) :
    (c.store r v).pendingRx = c.pendingRx := by cases r <;> rfl
@[simp] theorem Controller.store_mb0Empty (c : Controller) (r : CanReg) (v : Word) :
    (c.store r v).mb0Empty = c.mb0Empty := by cases r <;> rfl

/-- A store reaches one image only, and RI0R to RDH0R not at all (R32). -/
theorem Controller.image_store (c : Controller) (r q : CanReg) (v : Word) :
    (c.store r v).image q =
      if q = r then
        match r with
        | .rf0r => rf0rAfterWrite c.rf0r v
        | .btr | .ti0r | .tdt0r | .tdl0r | .tdh0r => v
        | .ri0r | .rdt0r | .rdl0r | .rdh0r => c.image q
      else c.image q := by
  cases r <;> cases q <;> rfl

/-- A store in the filter unit reaches the named register only. -/
theorem FilterUnit.image_store (f : FilterUnit) (r q : FilterReg) (v : Word) :
    (f.store r v).image q = if q = r then v else f.image q := by
  cases r <;> cases q <;> try rfl
  all_goals
    rename_i k j
    simp only [FilterUnit.store, FilterUnit.image, FilterReg.r1.injEq, FilterReg.r2.injEq, reduceCtorEq, if_false]
    by_cases h : j = k
    · subst h; simp
    · have h' : k.val ≠ j.val := fun e => h (Fin.ext e.symm)
      simp [h, h']

@[simp] theorem State.store_cfg (s : State) (r : Reg) (v : Word) : (s.store r v).cfg = s.cfg := by
  cases r <;> simp [State.store]
@[simp] theorem State.store_modelFault (s : State) (r : Reg) (v : Word) :
    (s.store r v).modelFault = s.modelFault := by cases r <;> simp [State.store]
@[simp] theorem State.store_ports (s : State) (r : Reg) (v : Word) : (s.store r v).ports = s.ports := by
  cases r <;> simp [State.store]
@[simp] theorem State.store_inbox (s : State) (r : Reg) (v : Word) : (s.store r v).inbox = s.inbox := by
  cases r <;> simp [State.store]
@[simp] theorem State.store_bus (s : State) (r : Reg) (v : Word) : (s.store r v).bus = s.bus := by
  cases r <;> simp [State.store]

@[simp] theorem State.store_can_filter (s : State) (i : Inst) (r : CanReg) (v : Word) :
    (s.store (.can i r) v).filter = s.filter := by simp [State.store]
@[simp] theorem State.store_can_ctl_same (s : State) (i : Inst) (r : CanReg) (v : Word) :
    (s.store (.can i r) v).ctl i = (s.ctl i).store r v := by simp [State.store]
@[simp] theorem State.store_can_ctl_other (s : State) (i : Inst) (r : CanReg) (v : Word) :
    (s.store (.can i r) v).ctl i.other = s.ctl i.other := by simp [State.store]
@[simp] theorem State.store_flt_ctl (s : State) (i : Inst) (r : FilterReg) (v : Word) :
    (s.store (.flt r) v).ctl i = s.ctl i := by cases i <;> rfl
@[simp] theorem State.store_flt_filter (s : State) (r : FilterReg) (v : Word) :
    (s.store (.flt r) v).filter = s.filter.store r v := rfl

/-- A store leaves every other register as it was. -/
theorem State.image_store_ne (s : State) (r q : Reg) (v : Word) (h : q ≠ r) : (s.store r v).image q = s.image q := by
  cases r with
  | can i r =>
    cases q with
    | can j q =>
      by_cases hj : j = i
      · subst hj
        have hq : q ≠ r := fun e => h (by rw [e])
        simp [State.image, Controller.image_store, hq]
      · simp [State.image, State.store, State.ctl_mapCtl, hj]
    | flt q => simp [State.image]
  | flt r =>
    cases q with
    | can j q => simp [State.image]
    | flt q =>
      have hq : q ≠ r := fun e => h (by rw [e])
      simp [State.image, FilterUnit.image_store, hq]

end Machine

end Sys2Proof
end

