-- ==== Sys2Proof/Laws/Ops.lean ====
section
/-! SUPPORT. What each shared operation does, said once: register reads and writes, field writes, the status write, the two
ways a command ends early, and the flags. Proofs cite these lemmas and leave the operations folded. -/

namespace Sys2Proof.Machine

open Sys2Proof.Safety

/-! ### Reads and writes (R12) -/

@[simp] theorem regRead_value (r : Reg) (s : State) : (regRead r s).1 = s.image r := rfl

@[simp] theorem regRead_state (r : Reg) (s : State) : (regRead r s).2 = s.record (readOf s r) := rfl

@[simp] theorem regWrite_cfg (r : Reg) (v : Word) (s : State) : (regWrite r v s).cfg = s.cfg := by
  simp [regWrite]
@[simp] theorem regWrite_modelFault (r : Reg) (v : Word) (s : State) :
    (regWrite r v s).modelFault = s.modelFault := by simp [regWrite]
@[simp] theorem regWrite_ports (r : Reg) (v : Word) (s : State) : (regWrite r v s).ports = s.ports := by
  simp [regWrite]
@[simp] theorem regWrite_inbox (r : Reg) (v : Word) (s : State) : (regWrite r v s).inbox = s.inbox := by
  simp [regWrite]
@[simp] theorem regWrite_bus (r : Reg) (v : Word) (s : State) :
    (regWrite r v s).bus = s.bus ++ [writeOf s r v] := by simp [regWrite, writeOf, addrOf]

@[simp] theorem regWrite_can_ctl (i : Inst) (r : CanReg) (v : Word) (s : State) :
    (regWrite (.can i r) v s).ctl i = (s.ctl i).store r v := by simp [regWrite]
@[simp] theorem regWrite_can_ctl_other (i : Inst) (r : CanReg) (v : Word) (s : State) :
    (regWrite (.can i r) v s).ctl i.other = s.ctl i.other := by simp [regWrite]
@[simp] theorem regWrite_can_filter (i : Inst) (r : CanReg) (v : Word) (s : State) :
    (regWrite (.can i r) v s).filter = s.filter := by simp [regWrite]
@[simp] theorem regWrite_flt_ctl (r : FilterReg) (v : Word) (s : State) (i : Inst) :
    (regWrite (.flt r) v s).ctl i = s.ctl i := by simp [regWrite]
@[simp] theorem regWrite_flt_filter (r : FilterReg) (v : Word) (s : State) :
    (regWrite (.flt r) v s).filter = s.filter.store r v := by simp [regWrite]

/-- The frame of a write: every other register reads as before. -/
theorem regWrite_image_ne (r q : Reg) (v : Word) (s : State) (h : q ≠ r) :
    (regWrite r v s).image q = s.image q := by
  simp [regWrite, State.image_store_ne s r q v h]

/-- A written filter-unit register reads as written (R64). -/
@[simp] theorem regWrite_flt_image (r : FilterReg) (v : Word) (s : State) :
    (regWrite (.flt r) v s).image (.flt r) = v := by
  simp [State.image, FilterUnit.image_store]

/-- A written block-owned instance register reads as written (R55, R64). -/
theorem regWrite_can_image (i : Inst) (r : CanReg) (v : Word) (s : State)
    (h : r = .btr ∨ r = .ti0r ∨ r = .tdt0r ∨ r = .tdl0r ∨ r = .tdh0r) :
    (regWrite (.can i r) v s).image (.can i r) = v := by
  rcases h with h | h | h | h | h <;> subst h <;> simp [State.image, Controller.image_store]

/-! ### Fields (R12) -/

/-- The mask of a one-bit field. -/
theorem fieldMask_bit (k : Nat) : fieldMask k k = 1#32 <<< k := by
  simp [fieldMask]

/-- A one-bit field write of 1 sets the bit and passes the others back. -/
theorem insertField_bit_set (old : Word) (k : Nat) : insertField old k k 1#32 = old ||| (1#32 <<< k) := by
  rw [insertField, fieldMask_bit]
  ext n hn
  simp only [BitVec.getElem_or, BitVec.getElem_and, BitVec.getElem_not]
  cases (1#32 <<< k)[n] <;> simp

/-- A one-bit field write of 0 clears the bit and passes the others back. -/
theorem insertField_bit_clear (old : Word) (k : Nat) : insertField old k k 0#32 = old &&& ~~~(1#32 <<< k) := by
  rw [insertField, fieldMask_bit]
  simp

/-- The bits of a one-bit mask. -/
theorem getLsbD_bit (k n : Nat) (hk : k < 32) : (1#32 <<< k).getLsbD n = decide (n = k) := by
  rw [BitVec.getLsbD_shiftLeft]
  by_cases h : n = k
  · subst h; simp [hk]
  · by_cases hn : n < k
    · simp [hn, h]
    · have h' : n - k ≠ 0 := by omega
      simp [h, h']

/-- `FieldWrite` is a read and a write (R12). -/
theorem fieldWrite_eq (r : Reg) (hi lo : Nat) (v : Word) (s : State) :
    fieldWrite r hi lo v s = regWrite r (insertField (s.image r) hi lo v) (s.record (readOf s r)) := rfl

/-! ### The status and the ends of a command (R170 to R177) -/

/-- Every code a command writes is a code of R170. -/
@[simp] theorem isStatusCode_code (c : StatusCode) : isStatusCode c.code = true := by cases c <;> decide

/-- The fault codes are told apart by their numbers alone (R170). -/
@[simp] theorem isFaultCode_code (c : StatusCode) : isFaultCode c.code = c.isFault := by cases c <;> decide

theorem StatusCode.code_injective (c d : StatusCode) (h : c.code = d.code) : c = d := by
  revert h; cases c <;> cases d <;> decide

@[simp] theorem bitTimingStatus_isFault (b : Bool) : (bitTimingStatus b).isFault = false := by cases b <;> rfl

/-- What the status write does: the status of one instance, and nothing else. -/
theorem writeStatus_effect (i : Inst) (c : StatusCode) (s : State) :
    Effect i [] [] { internal s i with status := c.code } s (writeStatus i c s) where
  own := by simp [internal, writeStatus]
  other := by simp [internal, writeStatus]
  images := by
    rintro (⟨j, r⟩ | r) -
    · rcases Inst.eq_or_other i j with h | h <;> subst h <;> simp [writeStatus, State.image]
      cases r <;> rfl
    · simp [writeStatus, State.image]
  outside := by constructor <;> simp [writeStatus]
  bus := by simp [writeStatus]

/-- What raising a fault does (R173). -/
theorem raiseFault_faulted (i : Inst) (c : StatusCode) (s : State) : Faulted i c [] s (raiseFault i c s) where
  own := by simp [internal, raiseFault]
  other := by simp [internal, raiseFault]
  images := by
    rintro (⟨j, r⟩ | r) -
    · rcases Inst.eq_or_other i j with h | h <;> subst h <;> simp [raiseFault, State.image]
      cases r <;> rfl
    · simp [raiseFault, State.image]
  outside := by constructor <;> simp [raiseFault]
  bus := by simp [raiseFault]

/-- What raising a model fault does (R176). -/
@[simp] theorem raiseModelFault_eq (r : ModelFault) (s : State) :
    raiseModelFault r s = { s with modelFault := some r } := rfl

/-- What setting or clearing `txLoaded` does (R25). -/
theorem setTxLoaded_effect (i : Inst) (b : Bool) (s : State) :
    Effect i [] [] { internal s i with txLoaded := b } s (setTxLoaded i b s) where
  own := by simp [internal, setTxLoaded]
  other := by simp [internal, setTxLoaded]
  images := by
    rintro (⟨j, r⟩ | r) -
    · rcases Inst.eq_or_other i j with h | h <;> subst h <;> simp [setTxLoaded, State.image]
      cases r <;> rfl
    · simp [setTxLoaded, State.image]
  outside := by constructor <;> simp [setTxLoaded]
  bus := by simp [setTxLoaded]

/-- What setting or clearing `rxHeld` does (R26). -/
theorem setRxHeld_effect (i : Inst) (b : Bool) (s : State) :
    Effect i [] [] { internal s i with rxHeld := b } s (setRxHeld i b s) where
  own := by simp [internal, setRxHeld]
  other := by simp [internal, setRxHeld]
  images := by
    rintro (⟨j, r⟩ | r) -
    · rcases Inst.eq_or_other i j with h | h <;> subst h <;> simp [setRxHeld, State.image]
      cases r <;> rfl
    · simp [setRxHeld, State.image]
  outside := by constructor <;> simp [setRxHeld]
  bus := by simp [setRxHeld]

/-- What storing a decoded Message does (R156). -/
theorem setPendingRx_effect (i : Inst) (m : Message) (s : State) :
    Effect i [] [] { internal s i with pendingRx := some m } s (setPendingRx i m s) where
  own := by simp [internal, setPendingRx]
  other := by simp [internal, setPendingRx]
  images := by
    rintro (⟨j, r⟩ | r) -
    · rcases Inst.eq_or_other i j with h | h <;> subst h <;> simp [setPendingRx, State.image]
      cases r <;> rfl
    · simp [setPendingRx, State.image]
  outside := by constructor <;> simp [setPendingRx]
  bus := by simp [setPendingRx]

/-- What advancing the filter cursor does (R127). -/
theorem advanceFilterCount_effect (i : Inst) (s : State) :
    Effect i [] [] { internal s i with filterCount := (s.ctl i).filterCount + 1 } s (advanceFilterCount i s) where
  own := by simp [internal, advanceFilterCount]
  other := by simp [internal, advanceFilterCount]
  images := by
    rintro (⟨j, r⟩ | r) -
    · rcases Inst.eq_or_other i j with h | h <;> subst h <;> simp [advanceFilterCount, State.image]
      cases r <;> rfl
    · simp [advanceFilterCount, State.image]
  outside := by constructor <;> simp [advanceFilterCount]
  bus := by simp [advanceFilterCount]

/-- What one register write does on the way through a command of instance `i`. -/
theorem regWrite_can_effect (i : Inst) (r : CanReg) (v : Word) (s : State) :
    Effect i [.can i r] [writeOf s (.can i r) v] (internal s i) s (regWrite (.can i r) v s) where
  own := by simp [internal]
  other := by simp [internal]
  images q hq := regWrite_image_ne _ _ _ _ (by simpa using hq)
  outside := by constructor <;> simp
  bus := by simp

/-- What one register write of the filter unit does on the way through a command of instance `i`. -/
theorem regWrite_flt_effect (i : Inst) (r : FilterReg) (v : Word) (s : State) :
    Effect i [.flt r] [writeOf s (.flt r) v] (internal s i) s (regWrite (.flt r) v s) where
  own := by simp [internal]
  other := by simp [internal]
  images q hq := regWrite_image_ne _ _ _ _ (by simpa using hq)
  outside := by constructor <;> simp
  bus := by simp

/-- What a recorded read does. -/
theorem record_effect (i : Inst) (a : Access) (s : State) : Effect i [] [a] (internal s i) s (s.record a) where
  own := by simp [internal]
  other := by simp [internal]
  images r _ := by simp
  outside := by constructor <;> simp
  bus := by simp

/-- What a field write of the filter unit does: a read and a write. -/
theorem fieldWrite_flt_effect (i : Inst) (r : FilterReg) (hi lo : Nat) (v : Word) (s : State) :
    Effect i [.flt r] [readOf s (.flt r), writeOf s (.flt r) (insertField (s.image (.flt r)) hi lo v)] (internal s i) s
      (fieldWrite (.flt r) hi lo v s) where
  own := by simp [internal, fieldWrite_eq]
  other := by simp [internal, fieldWrite_eq]
  images q hq := by
    rw [fieldWrite_eq, regWrite_image_ne _ _ _ _ (by simpa using hq), State.record_image]
  outside := by constructor <;> simp [fieldWrite_eq]
  bus := by simp [fieldWrite_eq, writeOf, addrOf]

/-- What a field write of an instance register does: a read and a write. -/
theorem fieldWrite_can_effect (i : Inst) (r : CanReg) (hi lo : Nat) (v : Word) (s : State) :
    Effect i [.can i r] [readOf s (.can i r), writeOf s (.can i r) (insertField (s.image (.can i r)) hi lo v)]
      (internal s i) s (fieldWrite (.can i r) hi lo v s) where
  own := by simp [internal, fieldWrite_eq]
  other := by simp [internal, fieldWrite_eq]
  images q hq := by
    rw [fieldWrite_eq, regWrite_image_ne _ _ _ _ (by simpa using hq), State.record_image]
  outside := by constructor <;> simp [fieldWrite_eq]
  bus := by simp [fieldWrite_eq, writeOf, addrOf]

end Sys2Proof.Machine

namespace Sys2Proof.Safety

open Sys2Proof.Machine

/-! ### Effects in sequence -/

/-- One effect after another: writes and accesses add up, and the internal state is the later one. -/
theorem Effect.trans {i : Inst} {w w' : List Reg} {m m' : List Access} {n n' : Internal} {s t u : State}
    (h : Effect i w m n s t) (h' : Effect i w' m' n' t u) : Effect i (w ++ w') (m ++ m') n' s u where
  own := h'.own
  other := h'.other.trans h.other
  images q hq := by
    simp only [List.mem_append, not_or] at hq
    rw [h'.images q hq.2, h.images q hq.1]
  outside := ⟨h'.outside.cfg.trans h.outside.cfg, h'.outside.ports.trans h.outside.ports,
    h'.outside.inbox.trans h.outside.inbox, h'.outside.modelFault.trans h.outside.modelFault⟩
  bus := by rw [h'.bus, h.bus, List.append_assoc]

/-- A command's status write after its effect. -/
theorem Effect.status {i : Inst} {w : List Reg} {m : List Access} {n : Internal} {s t : State} (c : StatusCode)
    (h : Effect i w m n s t) : Effect i w m { n with status := c.code } s (writeStatus i c t) := by
  have h' := h.trans (writeStatus_effect i c t)
  rw [h.own, List.append_nil, List.append_nil] at h'
  exact h'

/-- A fault raised after some reads (R173). -/
theorem Effect.fault {i : Inst} {m : List Access} {s t : State} (c : StatusCode)
    (h : Effect i [] m (internal s i) s t) : Faulted i c m s (raiseFault i c t) := by
  have h' := h.trans (raiseFault_faulted i c t)
  rw [h.own, List.append_nil, List.append_nil] at h'
  exact h'

/-- A write in a longer list of written registers claims less. -/
theorem Effect.mono {i : Inst} {w w' : List Reg} {m : List Access} {n : Internal} {s t : State}
    (h : Effect i w m n s t) (hw : ∀ r ∈ w, r ∈ w') : Effect i w' m n s t :=
  { h with images := fun r hr => h.images r fun hr' => hr (hw r hr') }

end Sys2Proof.Safety
end

