-- ==== Sys2Proof/Laws/Filter.lean ====
section
/-! SUPPORT. What programming one filter bank does (41_filter.md R124, R125, R129): its accesses in order, the registers it
leaves alone, and the images it leaves. -/

namespace Sys2Proof.Machine

open Sys2Proof.Safety

/-- FMR after its FINIT bit is set and cleared: every other bit is back (R12, R129). -/
theorem fmr_set_then_clear (x : Word) : (x ||| 1#32) &&& ~~~(1#32) = x &&& 0xFFFFFFFE#32 := by
  apply BitVec.eq_of_getLsbD_eq
  intro n hn
  simp only [BitVec.getLsbD_or, BitVec.getLsbD_and, BitVec.getLsbD_not]
  interval_cases n <;> simp

/-- The bank of R120, where the number is in range. -/
theorem bankIndex_eq (i : Inst) (s : State) (k : Fin 28)
    (h : k.val = s.cfg.bankBase i + (s.ctl i).filterCount) : bankIndex i s = k := by
  unfold bankIndex
  rw [← h]
  apply Fin.ext
  simp

/-- The accesses of steps 1 to 8 (R124), in order. -/
def bankAccesses (k : Fin 28) (w : Word) (s : State) : List Access :=
  [readOf s (.flt .fmr), writeOf s (.flt .fmr) (s.image (.flt .fmr) ||| 1#32),
    readOf s (.flt .fs1r), writeOf s (.flt .fs1r) (s.image (.flt .fs1r) ||| 1#32 <<< k.val),
    readOf s (.flt .fm1r), writeOf s (.flt .fm1r) (s.image (.flt .fm1r) ||| 1#32 <<< k.val),
    writeOf s (.flt (.r1 k)) w, writeOf s (.flt (.r2 k)) 0x00000000#32,
    readOf s (.flt .ffa1r), writeOf s (.flt .ffa1r) (s.image (.flt .ffa1r) &&& ~~~(1#32 <<< k.val)),
    readOf s (.flt .fa1r), writeOf s (.flt .fa1r) (s.image (.flt .fa1r) ||| 1#32 <<< k.val),
    .read (addrOf s (.flt .fmr)) (s.image (.flt .fmr) ||| 1#32),
    writeOf s (.flt .fmr) (s.image (.flt .fmr) &&& 0xFFFFFFFE#32)]

/-- What steps 1 to 8 do on the way through an install of instance `i` (R124, R125, R130). -/
theorem programBank_effect (i : Inst) (k : Fin 28) (w : Word) (s : State) :
    Effect i [.flt .fm1r, .flt .fs1r, .flt .ffa1r, .flt .fa1r, .flt (.r1 k), .flt (.r2 k), .flt .fmr]
      (bankAccesses k w s) (internal s i) s (programBank k w s) where
  own := by simp [programBank, internal, fieldWrite_eq]
  other := by simp [programBank, internal, fieldWrite_eq]
  images := by
    intro q hq
    simp only [List.mem_cons, List.not_mem_nil, or_false, not_or] at hq
    obtain ⟨h1, h2, h3, h4, h5, h6, h7⟩ := hq
    simp only [programBank, fieldWrite_eq]
    rw [regWrite_image_ne _ _ _ _ h7, State.record_image, regWrite_image_ne _ _ _ _ h4, State.record_image,
      regWrite_image_ne _ _ _ _ h3, State.record_image, regWrite_image_ne _ _ _ _ h6, regWrite_image_ne _ _ _ _ h5,
      regWrite_image_ne _ _ _ _ h1, State.record_image, regWrite_image_ne _ _ _ _ h2, State.record_image,
      regWrite_image_ne _ _ _ _ h7, State.record_image]
  outside := by constructor <;> simp [programBank, fieldWrite_eq]
  bus := by
    simp only [programBank, bankAccesses, fieldWrite_eq, readOf, writeOf, addrOf, regWrite_bus, State.record_bus,
      insertField_bit_set, insertField_bit_clear, regWrite_cfg, State.record_cfg, List.append_assoc,
      List.cons_append, List.nil_append, BitVec.shiftLeft_zero]
    simp [State.image, FilterUnit.image_store]
    exact fmr_set_then_clear _

/-- The images steps 1 to 8 leave (R129). -/
theorem programBank_images (k : Fin 28) (w : Word) (s : State) :
    (programBank k w s).image (.flt .fm1r) = s.image (.flt .fm1r) ||| 1#32 <<< k.val ∧
    (programBank k w s).image (.flt .fs1r) = s.image (.flt .fs1r) ||| 1#32 <<< k.val ∧
    (programBank k w s).image (.flt .ffa1r) = s.image (.flt .ffa1r) &&& ~~~(1#32 <<< k.val) ∧
    (programBank k w s).image (.flt .fa1r) = s.image (.flt .fa1r) ||| 1#32 <<< k.val ∧
    (programBank k w s).image (.flt (.r1 k)) = w ∧ (programBank k w s).image (.flt (.r2 k)) = 0#32 ∧
    (programBank k w s).image (.flt .fmr) = s.image (.flt .fmr) &&& 0xFFFFFFFE#32 := by
  simp only [programBank, fieldWrite_eq, insertField_bit_set, insertField_bit_clear]
  simp [State.image, FilterUnit.image_store]
  exact fmr_set_then_clear _

end Sys2Proof.Machine
end

