-- ==== Sys2Proof/Laws/Frame.lean ====
section
/-! SUPPORT. What the two register sequences of the frame commands do (42_frame_codec.md R146, R155): the five mailbox
writes and the five FIFO reads, and the two shapes `RX_DECODE` takes. -/

namespace Sys2Proof.Machine

open Sys2Proof.Safety

/-- The accesses of writes 1 to 5 (R146, R148), in order. -/
def mailboxAccesses (i : Inst) (w : MailboxWords) (s : State) : List Access :=
  [writeOf s (.can i .ti0r) 0x00000000#32, writeOf s (.can i .ti0r) w.ti, writeOf s (.can i .tdt0r) w.tdt,
    writeOf s (.can i .tdl0r) w.tdl, writeOf s (.can i .tdh0r) w.tdh]

/-- What writes 1 to 5 do on the way through a load (R146). -/
theorem loadMailbox_effect (i : Inst) (w : MailboxWords) (s : State) :
    Effect i [.can i .ti0r, .can i .tdt0r, .can i .tdl0r, .can i .tdh0r] (mailboxAccesses i w s) (internal s i) s
      (loadMailbox i w s) where
  own := by simp [internal, loadMailbox]
  other := by simp [internal, loadMailbox]
  images := by
    intro q hq
    simp only [List.mem_cons, List.not_mem_nil, or_false, not_or] at hq
    obtain ⟨h1, h2, h3, h4⟩ := hq
    simp only [loadMailbox]
    rw [regWrite_image_ne _ _ _ _ h4, regWrite_image_ne _ _ _ _ h3, regWrite_image_ne _ _ _ _ h2,
      regWrite_image_ne _ _ _ _ h1, regWrite_image_ne _ _ _ _ h1]
  outside := by constructor <;> simp [loadMailbox]
  bus := by simp [mailboxAccesses, loadMailbox, writeOf, addrOf]

/-- The images writes 1 to 5 leave (R146). -/
theorem loadMailbox_images (i : Inst) (w : MailboxWords) (s : State) :
    (loadMailbox i w s).image (.can i .ti0r) = w.ti ∧ (loadMailbox i w s).image (.can i .tdt0r) = w.tdt ∧
    (loadMailbox i w s).image (.can i .tdl0r) = w.tdl ∧ (loadMailbox i w s).image (.can i .tdh0r) = w.tdh := by
  simp [loadMailbox, State.image, Controller.image_store]

/-- The five reads of `RX_DECODE` (R155), in order. -/
def fifoAccesses (i : Inst) (s : State) : List Access :=
  [readOf s (.can i .rf0r), readOf s (.can i .ri0r), readOf s (.can i .rdt0r), readOf s (.can i .rdl0r),
    readOf s (.can i .rdh0r)]

/-- The state after the five reads. -/
def afterFifoReads (i : Inst) (s : State) : State :=
  { s with bus := s.bus ++ fifoAccesses i s }

/-- What the five reads do: they are recorded (R54). -/
theorem afterFifoReads_effect (i : Inst) (s : State) :
    Effect i [] (fifoAccesses i s) (internal s i) s (afterFifoReads i s) where
  own := by cases i <;> rfl
  other := by cases i <;> rfl
  images r _ := by rcases r with ⟨_ | _, _⟩ | _ <;> rfl
  outside := ⟨rfl, rfl, rfl, rfl⟩
  bus := rfl

/-- What the FIFO of an instance decodes to in this state (R142, R155). -/
def fifoEntry (i : Inst) (s : State) : Except StatusCode Message :=
  decodeEntry (s.image (.can i .ri0r)) (s.image (.can i .rdt0r)) (s.image (.can i .rdl0r)) (s.image (.can i .rdh0r))

/-- `RX_DECODE` with FMP0 = 0 ends after its first read (R155). -/
theorem execRxDecode_of_empty (i : Inst) (s : State) (h : (s.image (.can i .rf0r)).extractLsb' 0 2 = 0#2) :
    execRxDecode i s = .next (raiseFault i .rxEmpty (s.record (readOf s (.can i .rf0r)))) := by
  simp [execRxDecode, h]

/-- `RX_DECODE` with a pending entry makes all five reads and then decodes what it read (R155). -/
theorem execRxDecode_of_pending (i : Inst) (s : State) (h : (s.image (.can i .rf0r)).extractLsb' 0 2 ≠ 0#2) :
    execRxDecode i s =
      match fifoEntry i s with
      | .error c => .next (raiseFault i c (afterFifoReads i s))
      | .ok m => .next (writeStatus i .ok (setRxHeld i true (setPendingRx i m (afterFifoReads i s)))) := by
  have hr : ∀ (t : State) (a : Access) (r : Reg), readOf (t.record a) r = readOf t r := by
    intro t a r; simp [readOf, addrOf]
  have hs : ((((s.record (readOf s (.can i .rf0r))).record (readOf s (.can i .ri0r))).record
      (readOf s (.can i .rdt0r))).record (readOf s (.can i .rdl0r))).record (readOf s (.can i .rdh0r)) =
      afterFifoReads i s := by
    simp [State.record, afterFifoReads, fifoAccesses]
  cases hd : decodeEntry (s.image (.can i .ri0r)) (s.image (.can i .rdt0r)) (s.image (.can i .rdl0r))
    (s.image (.can i .rdh0r)) <;> simp [execRxDecode, h, hr, hs, fifoEntry, hd]

/-- What the end of a successful decode does after the reads (R155, R156). -/
theorem rxDecode_success_effect (i : Inst) (m : Message) (s : State) :
    Effect i [] (fifoAccesses i s) { internal s i with pendingRx := some m, rxHeld := true, status := 0x00#8 } s
      (writeStatus i .ok (setRxHeld i true (setPendingRx i m (afterFifoReads i s)))) := by
  have e := Effect.status .ok
    (((afterFifoReads_effect i s).trans (setPendingRx_effect i m _)).trans (setRxHeld_effect i true _))
  rw [(setPendingRx_effect i m _).own, (afterFifoReads_effect i s).own] at e
  simpa [StatusCode.code] using e

/-- The one error a FIFO entry can give (R142). -/
theorem decodeEntry_error {ri rdt rdl rdh : Word} {c : StatusCode} (h : decodeEntry ri rdt rdl rdh = .error c) :
    c = .rxDlcRange := by
  unfold decodeEntry at h
  split at h <;> cases h
  rfl

/-- Whatever validation reports is a fault code (R140, R170). -/
theorem validateMsg_error {m : Message} {c : StatusCode} (h : validateMsg m = .error c) : c.isFault = true := by
  unfold validateMsg at h
  split at h
  · cases h; rfl
  split at h
  · cases h; rfl
  split at h <;> cases h
  rfl

end Sys2Proof.Machine
end

