-- ==== Sys2Proof/Laws/PerInstr.lean ====
section
/-! SUPPORT. Statements for all commands, one lemma per constructor of `Instr`. -/

/-- The shape of a command's word (R80, R82, R86): the opcode in bits 3:0 is one of 1 to 7, bit 4 is the instance, bits 31:5
are 0, and the command is well formed. -/
def Sys2Proof.Laws.EncodingShape.Statement (a : Sys2Proof.Instr) : Prop :=
  (Sys2Proof.encode a).extractLsb' 0 4 = a.opcode ∧ 1 ≤ a.opcode.toNat ∧ a.opcode.toNat ≤ 7 ∧
    (Sys2Proof.encode a).extractLsb' 4 1 = a.inst.code ∧ (Sys2Proof.encode a).extractLsb' 5 27 = 0#27 ∧
    a.wellFormed = true

theorem Sys2Proof.Laws.EncodingShape.btProgram (i : Sys2Proof.Inst) :
    Sys2Proof.Laws.EncodingShape.Statement (.btProgram i) := by
  cases i <;> (unfold Sys2Proof.Laws.EncodingShape.Statement; decide)

theorem Sys2Proof.Laws.EncodingShape.setTestMode (i : Sys2Proof.Inst) :
    Sys2Proof.Laws.EncodingShape.Statement (.setTestMode i) := by
  cases i <;> (unfold Sys2Proof.Laws.EncodingShape.Statement; decide)

theorem Sys2Proof.Laws.EncodingShape.fltInstall (i : Sys2Proof.Inst) :
    Sys2Proof.Laws.EncodingShape.Statement (.fltInstall i) := by
  cases i <;> (unfold Sys2Proof.Laws.EncodingShape.Statement; decide)

theorem Sys2Proof.Laws.EncodingShape.txLoad (i : Sys2Proof.Inst) :
    Sys2Proof.Laws.EncodingShape.Statement (.txLoad i) := by
  cases i <;> (unfold Sys2Proof.Laws.EncodingShape.Statement; decide)

theorem Sys2Proof.Laws.EncodingShape.txRequest (i : Sys2Proof.Inst) :
    Sys2Proof.Laws.EncodingShape.Statement (.txRequest i) := by
  cases i <;> (unfold Sys2Proof.Laws.EncodingShape.Statement; decide)

theorem Sys2Proof.Laws.EncodingShape.rxDecode (i : Sys2Proof.Inst) :
    Sys2Proof.Laws.EncodingShape.Statement (.rxDecode i) := by
  cases i <;> (unfold Sys2Proof.Laws.EncodingShape.Statement; decide)

theorem Sys2Proof.Laws.EncodingShape.rxRelease (i : Sys2Proof.Inst) :
    Sys2Proof.Laws.EncodingShape.Statement (.rxRelease i) := by
  cases i <;> (unfold Sys2Proof.Laws.EncodingShape.Statement; decide)
end

