-- ==== Sys2Proof/Laws/Step.lean ====
section
/-! SUPPORT. Everything a command and a step can do, said once, so that a claim about every command or every step is a
short case analysis. -/

namespace Sys2Proof.Machine

open Sys2Proof.Safety

/-- Whatever the calculator reports is a fault code (R102, R170). -/
theorem btCalc_error {strict : Bool} {clock rate : Nat} {c : StatusCode} (h : btCalc strict clock rate = .error c) :
    c.isFault = true := by
  unfold btCalc at h
  simp only at h
  split at h
  · cases h; rfl
  split at h
  · cases h; rfl
  split at h
  · cases h; rfl
  split at h <;> cases h
  rfl

/-- The three ways a command ends (R171, R173, R176): a precise fault after reads only, a model fault, or its own effect
with a status that is no fault and the latch as it was. -/
inductive Ends (i : Inst) (s t : State) : Prop
  | faulted (c : StatusCode) (made : List Access) (isFault : c.isFault = true)
      (reads : ∀ x ∈ made, ∃ r, x = readOf s r) (h : Faulted i c made s t)
  | marked (r : ModelFault) (h : t = { s with modelFault := some r })
  | done (c : StatusCode) (written : List Reg) (made : List Access) (now : Internal) (noFault : c.isFault = false)
      (status : now.status = c.code) (latch : now.faultLatch = (s.ctl i).faultLatch) (h : Effect i written made now s t)

/-- Every command ends in one of the three ways, in every state (R214). -/
theorem exec_ends (a : Instr) (s : State) : ∃ t, exec a s = .next t ∧ Ends a.inst s t := by
  cases a with
  | btProgram i =>
    simp only [exec, execBtProgram]
    cases h : btCalc s.cfg.strictBitTiming (argClock s) (argRate s) with
    | error c => exact ⟨_, rfl, .faulted c [] (btCalc_error h) (by simp) (raiseFault_faulted i c s)⟩
    | ok r =>
      refine ⟨_, rfl, .done (bitTimingStatus r.2) _ _ _ (by simp) ?_ ?_
        (Effect.status _ ((record_effect i _ s).trans (regWrite_can_effect i .btr _ _)))⟩
      · rfl
      · simp [internal, Instr.inst]
  | setTestMode i =>
    refine ⟨_, rfl, .done .ok _ _ _ rfl ?_ ?_
      (Effect.status _ ((record_effect i _ s).trans (regWrite_can_effect i .btr _ _)))⟩
    · rfl
    · simp [internal, Instr.inst]
  | fltInstall i =>
    simp only [exec, execFltInstall]
    split
    · exact ⟨_, rfl, .done .noopSaturated _ _ _ rfl rfl rfl (writeStatus_effect i _ s)⟩
    split
    · exact ⟨_, rfl, .faulted _ [] rfl (by simp) (raiseFault_faulted i _ s)⟩
    · refine ⟨_, rfl, .done .ok _ _ _ rfl ?_ ?_
        (Effect.status _ ((programBank_effect i _ _ s).trans (advanceFilterCount_effect i _)))⟩
      · rfl
      · exact congrArg Internal.faultLatch
          (programBank_effect i (bankIndex i s) (filterWord (argId s) (argFmt s)) s).own
  | txLoad i =>
    simp only [exec, execTxLoad]
    cases h : validateMsg (argMsg s) with
    | error c => exact ⟨_, rfl, .faulted c [] (validateMsg_error h) (by simp) (raiseFault_faulted i c s)⟩
    | ok u =>
      simp only
      split
      · exact ⟨_, rfl, .marked _ rfl⟩
      · refine ⟨_, rfl, .done .ok _ _ _ rfl ?_ ?_
          (Effect.status _ ((loadMailbox_effect i _ s).trans (setTxLoaded_effect i _ _)))⟩
        · rfl
        · exact congrArg Internal.faultLatch (loadMailbox_effect i (encodeMsg (argMsg s)) s).own
  | txRequest i =>
    simp only [exec, execTxRequest]
    split
    · exact ⟨_, rfl, .marked _ rfl⟩
    · refine ⟨_, rfl, .done .ok _ _ _ rfl ?_ ?_
        (Effect.status _ ((fieldWrite_can_effect i .ti0r 0 0 1#32 s).trans (setTxLoaded_effect i _ _)))⟩
      · rfl
      · exact congrArg Internal.faultLatch (fieldWrite_can_effect i .ti0r 0 0 1#32 s).own
  | rxDecode i =>
    simp only [exec]
    by_cases h : (s.image (.can i .rf0r)).extractLsb' 0 2 = 0#2
    · rw [execRxDecode_of_empty i s h]
      exact ⟨_, rfl, .faulted .rxEmpty _ rfl (by simp) (Effect.fault _ (record_effect i _ s))⟩
    · rw [execRxDecode_of_pending i s h]
      cases hd : fifoEntry i s with
      | error c =>
        cases decodeEntry_error hd
        refine ⟨_, rfl, .faulted .rxDlcRange _ rfl ?_ (Effect.fault _ (afterFifoReads_effect i s))⟩
        intro x hx
        simp only [fifoAccesses, List.mem_cons, List.not_mem_nil, or_false] at hx
        rcases hx with rfl | rfl | rfl | rfl | rfl <;> exact ⟨_, rfl⟩
      | ok m => exact ⟨_, rfl, .done .ok _ _ _ rfl rfl rfl (rxDecode_success_effect i m s)⟩
  | rxRelease i =>
    refine ⟨_, rfl, .done .ok _ _ _ rfl ?_ ?_
      (Effect.status _ ((regWrite_can_effect i .rf0r _ s).trans (setRxHeld_effect i _ _)))⟩
    · rfl
    · simp [internal, Instr.inst]

/-- The inversion of `exec_ends`. -/
theorem ends_of_exec {a : Instr} {s t : State} (h : exec a s = .next t) : Ends a.inst s t := by
  obtain ⟨u, hu, he⟩ := exec_ends a s
  rw [hu] at h
  cases h
  exact he

/-- The admitted configurations, as numbers (R52, R121). -/
theorem configurationOk_banks {p : Params} (h : configurationOk p = true) (i : Inst) :
    p.bankBase i + 13 < 28 ∧ (p.bankBase i + 13 < p.bankBase i.other ∨ p.bankBase i.other + 13 < p.bankBase i) := by
  simp only [configurationOk, banksDisjoint, banksInRange, Config.nBanks, Bool.and_eq_true, Bool.or_eq_true,
    decide_eq_true_eq] at h
  obtain ⟨⟨hd, h1, h2⟩, -⟩ := h
  have h1 := of_decide_eq_true h1
  have h2 := of_decide_eq_true h2
  cases i <;> simp only [Params.bankBase, Inst.other] <;> omega

/-- What one event does. -/
theorem handle_cases {e : Event} {s t : State} (h : handle e s = .next t) :
    (∃ w a, e = .command w ∧ decode w = .ok a ∧ exec a s = .next t) ∨
    (∃ w i, e = .command w ∧ t = illegalCommand i s) ∨
    (∃ p, e = .drivePorts p ∧ t = { s with ports := p }) ∨
    (∃ i p, e = .peripheral i p ∧ t = showPeripheral i p s) ∨
    (∃ u, e = .reset u ∧ t = applyReset u s) ∨
    (∃ o, e = .observe o ∧ t = s) := by
  cases e with
  | command w =>
    simp only [handle, runWord] at h
    cases hd : decode w with
    | ok a => rw [hd] at h; exact .inl ⟨w, a, rfl, hd, h⟩
    | error e => rw [hd] at h; cases h; exact .inr (.inl ⟨w, _, rfl, rfl⟩)
  | drivePorts p => cases h; exact .inr (.inr (.inl ⟨p, rfl, rfl⟩))
  | peripheral i p => cases h; exact .inr (.inr (.inr (.inl ⟨i, p, rfl, rfl⟩)))
  | reset u => cases h; exact .inr (.inr (.inr (.inr (.inl ⟨u, rfl, rfl⟩))))
  | observe o =>
    simp only [handle] at h
    split at h <;> cases h
    exact .inr (.inr (.inr (.inr (.inr ⟨o, rfl, rfl⟩))))

/-- What a step that answers a next state did: the configuration is admitted, and it waited or took one event. -/
theorem step_cases {s t : State} (h : step s = .next t) :
    configurationOk s.cfg = true ∧
      ((s.inbox = [] ∧ t = s) ∨
        ∃ e rest, s.inbox = e :: rest ∧ handle e { s with inbox := rest } = .next t) := by
  unfold step takeEvent at h
  split at h
  · rename_i hc
    refine ⟨hc, ?_⟩
    split at h
    · rename_i hi; cases h; exact .inl ⟨hi, rfl⟩
    · rename_i e rest hi; exact .inr ⟨e, rest, hi, h⟩
  · cases h

end Sys2Proof.Machine
end

