-- ==== Sys2Proof/Laws/Words.lean ====
section
/-! SUPPORT. The register words as their fields in order, most significant first: one lemma per word function of
30_encoding.md R70 to R75, so that no later proof unfolds its shifts. -/

namespace Sys2Proof.Machine

/-- The fields of `btrWord` (R75): test bits, 29:26, SJW, 23, TS2, TS1, 15:10, BRP. -/
theorem btrWord_fields (p : Nat) (sjw tb : BitVec 2) :
    btrWord p sjw tb = tb ++ 0#4 ++ sjw ++ 0#1 ++ 1#3 ++ 3#4 ++ 0#6 ++ BitVec.ofNat 10 (p - 1) := by
  unfold btrWord Config.tseg1Tq Config.tseg2Tq
  generalize BitVec.ofNat 10 (p - 1) = q
  apply BitVec.eq_of_getLsbD_eq
  intro n hn
  simp only [BitVec.getLsbD_append, BitVec.getLsbD_or, BitVec.getLsbD_shiftLeft, BitVec.getLsbD_setWidth]
  interval_cases n <;> simp

/-- The fields of a Standard identifier word (R70): STID, 20:2, RTR, 0. -/
theorem encodeIdWord_standard_fields (id : BitVec 29) (type : FrameType) :
    encodeIdWord id .standard type =
      id.extractLsb' 0 11 ++ 0#19 ++ BitVec.ofBool (decide (type = .remote)) ++ 0#1 := by
  apply BitVec.eq_of_getLsbD_eq
  intro n hn
  cases type <;>
    simp only [encodeIdWord, BitVec.getLsbD_append, BitVec.getLsbD_or, BitVec.getLsbD_shiftLeft,
      BitVec.getLsbD_setWidth, BitVec.getLsbD_extractLsb'] <;>
    interval_cases n <;> simp

/-- The fields of an Extended identifier word (R70): identifier, IDE, RTR, 0. -/
theorem encodeIdWord_extended_fields (id : BitVec 29) (type : FrameType) :
    encodeIdWord id .extended type = id ++ 1#1 ++ BitVec.ofBool (decide (type = .remote)) ++ 0#1 := by
  apply BitVec.eq_of_getLsbD_eq
  intro n hn
  cases type <;>
    simp only [encodeIdWord, BitVec.getLsbD_append, BitVec.getLsbD_or, BitVec.getLsbD_shiftLeft,
      BitVec.getLsbD_setWidth] <;>
    interval_cases n <;> simp

/-- The fields of RF0R as the peripheral shows it (R36): reserved 31:6, RFOM0, FOVR0, FULL0, reserved 2, FMP0. -/
theorem rf0rShown_fields (old : Word) (p : PeripheralInputs) :
    rf0rShown old p = old.extractLsb' 6 26 ++ BitVec.ofBool p.rfom0 ++ BitVec.ofBool p.fovr0 ++ BitVec.ofBool p.full0 ++
      old.extractLsb' 2 1 ++ p.fmp0 := by
  apply BitVec.eq_of_getLsbD_eq
  intro n hn
  simp only [rf0rShown, BitVec.getLsbD_append, BitVec.getLsbD_or, BitVec.getLsbD_shiftLeft, BitVec.getLsbD_setWidth,
    BitVec.getLsbD_and, BitVec.getLsbD_extractLsb']
  interval_cases n <;> simp

/-- The fields of RF0R after the release write (R36, R159): reserved 31:6 and 2 are 0, RFOM0 is 1, the rest as it was. -/
theorem rf0rAfterWrite_release_fields (old : Word) :
    rf0rAfterWrite old 0x00000020#32 = 0#26 ++ 1#1 ++ old.extractLsb' 3 2 ++ 0#1 ++ old.extractLsb' 0 2 := by
  apply BitVec.eq_of_getLsbD_eq
  intro n hn
  simp only [rf0rAfterWrite, BitVec.getLsbD_append, BitVec.getLsbD_or, BitVec.getLsbD_and, BitVec.getLsbD_not,
    BitVec.getLsbD_extractLsb']
  interval_cases n <;> simp

end Sys2Proof.Machine
end

