-- ==== Sys2Proof/Tests/Slice0.lean ====
section
/-! SUPPORT. Tests of the model against the vectors of 95_test_vectors.md, the well-formedness smoke tests, and a witness for
every statement that has hypotheses. Each test names its vector or rule. -/

namespace Sys2Proof.Tests

open Sys2Proof Sys2Proof.Machine Sys2Proof.Safety

/-- The outcome is a next state of which `f` holds. -/
def gives (r : Result) (f : State → Bool) : Bool :=
  match r with
  | .next s => f s
  | .fault _ => false
  | .refused _ => false

/-- One step on a state with a command word presented. -/
def run (s : State) (w : Nat) : Result := step (s.withFetchWord 32 w)

/-- V-PL1. -/
def bytes11 : Vector Byte 8 := #v[0x11#8, 0x22#8, 0x33#8, 0x44#8, 0x55#8, 0x66#8, 0x77#8, 0x88#8]

/-- V-RT1. -/
def msg123 : Message := ⟨0x123#29, .standard, .data, 3#4, bytes11⟩

/-- Reset with clock and rate ports. -/
def clocked (clock rate : BitVec 32) : State :=
  { State.reset with ports := { Ports.idle with argClock := clock, argRate := rate } }

/-- Reset with identifier and format ports, and the two cursors given. -/
def filtering (id : BitVec 29) (fmt : BitVec 1) (n1 n2 : Nat) : State :=
  { State.reset with
    ports := { Ports.idle with argId := id, argFmt := fmt }
    can1 := { State.reset.can1 with filterCount := n1 }
    can2 := { State.reset.can2 with filterCount := n2 } }

/-- Reset with a Message on the port, and the mailbox of can1 free or not. -/
def loading (m : Message) (free : Bool) : State :=
  { State.reset with
    ports := { Ports.idle with argMsg := m }
    can1 := { State.reset.can1 with mb0Empty := free } }

/-- Reset with mailbox 0 of can1 loaded as V-TX1 leaves it. -/
def loadedState : State :=
  { State.reset with
    can1 := { State.reset.can1 with
      txLoaded := true, ti0r := 0x24600000#32, tdt0r := 3#32, tdl0r := 0x44332211#32, tdh0r := 0x88776655#32 } }

/-- Reset with the FIFO registers of can1 given. -/
def receiving (rf ri rdt rdl rdh : Word) : State :=
  { State.reset with
    can1 := { State.reset.can1 with rf0r := rf, ri0r := ri, rdt0r := rdt, rdl0r := rdl, rdh0r := rdh } }

/-- The inputs of V-RX1 as the peripheral shows them. -/
def shownRx1 : PeripheralInputs where
  mb0Empty := true
  txrq := false
  fmp0 := 1#2
  full0 := false
  fovr0 := false
  rfom0 := false
  ri0r := 0x24600000#32
  rdt0r := 0x12340103#32
  rdl0r := 0x44332211#32
  rdh0r := 0x88776655#32

/-- A state that a run reaches: can1 has installed one filter, loaded a frame, holds a received one and has met a fault. -/
def busyState : State :=
  { loadedState with
    can1 := { loadedState.can1 with
      filterCount := 1, status := 0x3F#8, faultLatch := true, rxHeld := true, pendingRx := some msg123
      btr := 0x4213000B#32, rf0r := 0x00000001#32 }
    filter := { State.reset.filter with
      fmr := 0x2A1C0E00#32, fm1r := 1#32, fs1r := 1#32, fa1r := 1#32
      banks := State.reset.filter.banks.set 0 ⟨0x24600000#32, 0#32⟩ } }

/-! ## Well-formedness and configuration: a term each check refuses -/

theorem test_wellformed_accepts_a_command : (Instr.rxRelease .can2).wellFormed = true := by decide

/-- V-TX4: a Standard identifier of 0x800. -/
theorem test_wide_standard_identifier_is_invalid :
    ({ msg123 with identifier := 0x800#29 } : Message).identifierFits = false := by decide

theorem test_small_identifiers_are_valid :
    msg123.valid = true ∧ ({ msg123 with identifier := 0x7FF#29 } : Message).valid = true ∧
      ({ msg123 with identifier := 0x1FFFFFFF#29, identifierFormat := .extended } : Message).valid = true := by decide

/-- V-TX5: a length of 9. -/
theorem test_length_nine_is_invalid : ({ msg123 with length := 9#4 } : Message).lengthFits = false := by decide

theorem test_equivalence_ignores_bytes_past_length :
    Message.Equivalent msg123 { msg123 with payload := #v[0x11#8, 0x22#8, 0x33#8, 0#8, 0#8, 0#8, 0#8, 0#8] } := by
  refine ⟨rfl, rfl, rfl, rfl, ?_⟩
  intro k h hk
  have hk' : k < 3 := hk
  interval_cases k <;> rfl

theorem test_default_configuration_is_admitted : configurationOk {} = true := by decide

/-- R121, first condition: the ranges share bank 13. -/
theorem test_overlapping_banks_are_refused : banksDisjoint { bankBase2 := 13 } = false := by decide

/-- R121, second condition: the range ends at bank 28. -/
theorem test_out_of_range_banks_are_refused : banksInRange { bankBase2 := 15 } = false := by decide

/-- R52: BTR at an address that is no multiple of 4, and TSR at one. -/
theorem test_misaligned_maps_are_refused :
    mapAligned { btr := 0x01D#32 } = false ∧ mapAligned { tsr := 0x00A#32 } = false := by decide

/-! ## Decoding: words written out from R80 and R82 (V-CD1 to V-CD8) -/

theorem test_decode_bt_program : decode 0b00000000000000000000000000000001#32 = .ok (.btProgram .can1) := by rfl
theorem test_decode_set_test_mode : decode 0b00000000000000000000000000010010#32 = .ok (.setTestMode .can2) := by rfl
theorem test_decode_flt_install : decode 0b00000000000000000000000000000011#32 = .ok (.fltInstall .can1) := by rfl
theorem test_decode_tx_load : decode 0b00000000000000000000000000010100#32 = .ok (.txLoad .can2) := by rfl
theorem test_decode_tx_request : decode 0b00000000000000000000000000000101#32 = .ok (.txRequest .can1) := by rfl
theorem test_decode_rx_decode : decode 0b00000000000000000000000000000110#32 = .ok (.rxDecode .can1) := by rfl
theorem test_decode_rx_release : decode 0b00000000000000000000000000010111#32 = .ok (.rxRelease .can2) := by rfl
/-- V-CD4, V-CD5, V-CD7, V-CD8. -/
theorem test_decode_illegal :
    decode 0x00000000#32 = .error (.reservedOpcode .can1) ∧ decode 0x00000018#32 = .error (.reservedOpcode .can2) ∧
    decode 0x00000021#32 = .error (.reservedBits .can1) ∧ decode 0x80000013#32 = .error (.reservedBits .can2) := by
  exact ⟨rfl, rfl, rfl, rfl⟩
theorem test_table_word : decodeTableWord 32 0x17 = some (.rxRelease .can2) ∧ decodeTableWord 32 0x27 = none := by decide
theorem test_encode : encode (.rxDecode .can2) = 0x00000016#32 := by decide

/-! ## Register words -/

/-- V-ID1, V-ID2, V-ID4, V-ID7. -/
theorem test_identifier_words :
    encodeIdWord 0x123#29 .standard .data = 0x24600000#32 ∧ encodeIdWord 0x7FF#29 .standard .remote = 0xFFE00002#32 ∧
    encodeIdWord 0x12345678#29 .extended .data = 0x91A2B3C4#32 ∧ encodeIdWord 0x7FF#29 .extended .data = 0x00003FFC#32 := by
  decide
/-- V-ID10, V-ID12. -/
theorem test_identifier_words_decoded :
    decodeIdWord 0x24600008#32 = (0x123#29, .standard, .data) ∧ decodeIdWord 0x00000006#32 = (0#29, .extended, .remote) := by
  decide
/-- V-PL1. -/
theorem test_payload_words : packLow bytes11 = 0x44332211#32 ∧ packHigh bytes11 = 0x88776655#32 := by decide
/-- R58 and V-FL2: F14R1 at 0x4000_66B0, BTR[1] at 0x4000_641C. -/
theorem test_addresses :
    regAddr {} (.flt (.r1 14)) = 0x400066B0#32 ∧ regAddr {} (.can .can1 .btr) = 0x4000641C#32 := by decide

/-! ## One step of each command -/

/-- V-BT21 (V-BT1 from the reset word). -/
theorem test_bt_program_exact :
    gives (run (clocked 42000000#32 500000#32) 0x01) (fun s => s.can1.btr == 0x0213000B#32 && s.can1.status == 0#8) = true := by
  decide
/-- V-BT15: the product is not wrapped. -/
theorem test_bt_program_wide_product :
    gives (run (clocked 42000000#32 0xFFFFFFFF#32) 0x11)
      (fun s => s.can2.btr == 0x01230000#32 && s.can2.status == 0x11#8 && s.can2.faultLatch && !s.can1.faultLatch) = true := by
  decide
/-- V-BT9, V-BT10, V-BT11: the top of the prescaler's range. -/
theorem test_bt_calc_range :
    btCalc false 7168000 1000 = .ok (1024, false) ∧ btCalc false 7174999 1000 = .ok (1024, true) ∧
    btCalc false 7175000 1000 = .error .btPrescalerRange ∧ btCalc true 16000000 500000 = .error .btInexact := by
  exact ⟨rfl, rfl, rfl, rfl⟩
/-- V-BT19: the literal SJW field. -/
theorem test_sjw_literal : btrWord 12 (sjwField .literal) 0#2 = 0x0313000B#32 := by decide

/-- V-TM5. -/
theorem test_set_test_mode_loopback :
    gives (run { State.reset with ports := { Ports.idle with argMode := 1#2 } } 0x02)
      (fun s => s.can1.btr == 0x41230000#32 && s.can1.status == 0#8) = true := by decide
/-- V-TM4: the test bits are cleared and the rest kept. -/
theorem test_set_test_mode_normal :
    gives (run { State.reset with can2 := { State.reset.can2 with btr := 0xC213000B#32 } } 0x12)
      (fun s => s.can2.btr == 0x0213000B#32) = true := by decide

/-- V-FL2. -/
theorem test_flt_install_can2 :
    gives (run (filtering 0x12345678#29 1#1 0 0) 0x13)
      (fun s => s.filter.banks[14] == ⟨0x91A2B3C4#32, 0#32⟩ && s.filter.fs1r == 0x4000#32 && s.filter.fm1r == 0x4000#32 &&
        s.filter.fa1r == 0x4000#32 && s.filter.ffa1r == 0#32 && s.filter.fmr == 0x2A1C0E00#32 &&
        s.can2.filterCount == 1 && s.can1.filterCount == 0) = true := by decide
/-- V-FL8: saturation is checked before the identifier. -/
theorem test_flt_install_saturated :
    gives (run (filtering 0x800#29 0#1 14 0) 0x03)
      (fun s => s.can1.status == 0x02#8 && !s.can1.faultLatch && s.bus == [] && s.can1.filterCount == 14) = true := by decide

/-- V-TX1. -/
theorem test_tx_load :
    gives (run (loading msg123 true) 0x04)
      (fun s => s.can1.ti0r == 0x24600000#32 && s.can1.tdt0r == 3#32 && s.can1.tdl0r == 0x44332211#32 &&
        s.can1.tdh0r == 0x88776655#32 && s.can1.txLoaded && s.bus.head? == some (.write 0x40006580#32 0#32) &&
        s.bus.length == 5) = true := by decide
/-- V-TX10: validation comes before the model check. -/
theorem test_tx_load_invalid_before_busy :
    gives (run (loading { msg123 with length := 9#4 } false) 0x04)
      (fun s => s.can1.status == 0x21#8 && s.can1.faultLatch && s.modelFault == none && s.bus == []) = true := by decide

/-- V-TX2. -/
theorem test_tx_request :
    gives (run loadedState 0x05) (fun s => s.can1.ti0r == 0x24600001#32 && !s.can1.txLoaded && s.can1.status == 0#8) = true := by
  decide
/-- V-TX8 and P5. -/
theorem test_tx_request_unloaded :
    gives (run State.reset 0x05) (fun s => s.modelFault == some .txNotLoaded && s.can1 == State.reset.can1 && s.bus == []) =
      true := by decide

/-- V-RX8. -/
theorem test_rx_decode :
    gives (run (receiving 1#32 0x24600008#32 0xFFFFFFF2#32 0xAABBCCDD#32 0#32) 0x06)
      (fun s => s.can1.pendingRx ==
        some ⟨0x123#29, .standard, .data, 2#4, #v[0xDD#8, 0xCC#8, 0xBB#8, 0xAA#8, 0#8, 0#8, 0#8, 0#8]⟩ && s.can1.rxHeld) =
      true := by decide
/-- V-RX7: emptiness is checked before the DLC. -/
theorem test_rx_decode_empty :
    gives (run (receiving 0#32 0#32 0xF#32 0#32 0#32) 0x06)
      (fun s => s.can1.status == 0x30#8 && s.can1.faultLatch && s.can1.pendingRx == none && !s.can1.rxHeld) = true := by decide

/-- V-RX9, and R36: FULL0 stays set. -/
theorem test_rx_release :
    gives (run (receiving 0x0000000B#32 0#32 0#32 0#32 0#32) 0x07)
      (fun s => s.bus == [.write 0x4000640C#32 0x00000020#32] && s.can1.rf0r == 0x0000002B#32 && s.can1.status == 0#8) =
      true := by decide

/-- R84 and P4, command 0. -/
theorem test_illegal_word :
    gives (run State.reset 0x00)
      (fun s => s.can1 == { State.reset.can1 with status := 0x3F#8, faultLatch := true } && s.can2 == State.reset.can2) =
      true := by decide

/-- R200: reset clears the latch and leaves `modelFault` (R28). -/
theorem test_reset_event :
    gives (step { busyState with modelFault := some .txBusy, inbox := [.reset .named] })
      (fun s => s.can1 == State.reset.can1 && s.filter == State.reset.filter && s.modelFault == some .txBusy) = true := by decide

/-- R27: a read before any decode faults. -/
theorem test_unwritten_read_faults :
    step { State.reset with inbox := [.observe (.pendingRx .can1)] } = .fault (.pendingRxUnwritten .can1) := by rfl

/-- R87: a short payload is padded. -/
theorem test_padding : padPayload [0xA5#8] = #v[0xA5#8, 0#8, 0#8, 0#8, 0#8, 0#8, 0#8, 0#8] := by decide

/-! ## Witnesses: for each statement with hypotheses, values that meet them, at the ends of a clause's range -/

theorem witness_EveryWordIsACommandOrIllegal :
    (0x20#32).toNat ≥ 2 ^ 5 ∧ (0x10#32).toNat % 16 = 0 ∧ (0x08#32).toNat % 16 ≥ 8 ∧
      ¬ ((0x17#32).toNat ≥ 2 ^ 5 ∨ (0x17#32).toNat % 16 = 0 ∨ (0x17#32).toNat % 16 ≥ 8) := by decide

theorem witness_IllegalWordOnlySetsStatusAndLatch :
    (0x21#32).toNat ≥ 2 ^ 5 ∧ (0x00#32).toNat % 16 = 0 ∧ (0x1F#32).toNat % 16 ≥ 8 := by decide

theorem witness_StepRunsTheDecodedCommand :
    configurationOk (State.reset.withFetchWord 32 0x16).cfg = true ∧
      (State.reset.withFetchWord 32 0x16).inbox = .command 0x16#32 :: [] ∧
      decodeTableWord 32 0x16 = some (.rxDecode .can2) ∧ (Instr.rxDecode .can2).wellFormed = true ∧
      (State.reset.withFetchWord 32 0x21).inbox = .command 0x21#32 :: [] ∧ decodeTableWord 32 0x21 = none := by decide

theorem witness_StepWithNothingPresentedKeepsState :
    configurationOk State.reset.cfg = true ∧ State.reset.inbox = [] := by decide

theorem witness_BadConfigurationsAreRefused_overlap :
    step { State.reset with cfg := { bankBase2 := 13 } } = .refused .badConfiguration := by rfl
theorem witness_BadConfigurationsAreRefused_range :
    step { State.reset with cfg := { bankBase2 := 15 } } = .refused .badConfiguration := by rfl
theorem witness_BadConfigurationsAreRefused_register :
    step { State.reset with cfg := { map := { fkR2 := 0x245#32 } } } = .refused .badConfiguration := by rfl
theorem witness_BadConfigurationsAreRefused_foreign :
    step { State.reset with cfg := { map := { ier := 0x016#32 } } } = .refused .badConfiguration := by rfl

theorem witness_DefaultMapReachesEveryRegister : State.reset.cfg.map = {} := by rfl

theorem witness_BtCalcMeetsTheFormula :
    btCalc false 7 0 = .error .btRateZero ∧ btCalc false 6 1 = .error .btPrescalerZero ∧
    btCalc false 7175 1 = .error .btPrescalerRange ∧ btCalc true 7174 1 = .error .btInexact ∧
    btCalc true 7168 1 = .ok (1024, false) ∧ btCalc false 7174 1 = .ok (1024, true) ∧
    btCalc false 7 1 = .ok (1, false) := by
  exact ⟨rfl, rfl, rfl, rfl, rfl, rfl, rfl⟩

theorem witness_RateProductNeverWraps :
    (clocked 0xFFFFFFFF#32 613566757#32).ports.argRate.toNat > 613566756 := by decide

theorem witness_RealisedRateIsNeverBelowTarget :
    btCalc false 42000000 500000 = .ok (12, false) ∧ 7 * 500000 ∣ 42000000 ∧
      btCalc false 16000000 500000 = .ok (4, true) ∧ ¬ 7 * 500000 ∣ 16000000 := by
  refine ⟨rfl, ?_, rfl, ?_⟩ <;> decide

theorem witness_BtProgramWritesTimingFieldsOrFaults :
    btCalc (clocked 7#32 1#32).cfg.strictBitTiming (clocked 7#32 1#32).ports.argClock.toNat
        (clocked 7#32 1#32).ports.argRate.toNat = .ok (1, false) ∧
      btCalc (clocked 7#32 0#32).cfg.strictBitTiming (clocked 7#32 0#32).ports.argClock.toNat
        (clocked 7#32 0#32).ports.argRate.toNat = .error .btRateZero := by
  exact ⟨rfl, rfl⟩

theorem witness_BtProgramTwiceLeavesTheSameWord :
    ∃ t, exec (.btProgram .can1) (clocked 42000000#32 500000#32) = .next t ∧ t.can1.btr = 0x0213000B#32 :=
  ⟨_, rfl, by decide⟩

theorem witness_TestModeReadsBackFromBtr : State.reset.ctl .can2 = Controller.reset .named := by rfl

theorem witness_BtProgramAndSetTestModeCommute :
    btCalc (clocked 42000000#32 500000#32).cfg.strictBitTiming (clocked 42000000#32 500000#32).ports.argClock.toNat
      (clocked 42000000#32 500000#32).ports.argRate.toNat = .ok (12, false) := by rfl

/-- One bank in the middle of the range of can2. -/
theorem witness_FltInstallAccessesInOrder :
    configurationOk (filtering 0#29 0#1 0 7).cfg = true ∧ ((filtering 0#29 0#1 0 7).ctl .can2).filterCount < 14 ∧
      ((filtering 0#29 0#1 0 7).ports.argFmt = 0#1 → (filtering 0#29 0#1 0 7).ports.argId.toNat < 0x800) ∧
      (21 : Fin 28).val = (filtering 0#29 0#1 0 7).cfg.bankBase .can2 + ((filtering 0#29 0#1 0 7).ctl .can2).filterCount := by
  decide

/-- The first bank with the widest Standard identifier, and the last bank with an Extended one. -/
theorem witness_FltInstallProgramsTheNextBank :
    (configurationOk (filtering 0x7FF#29 0#1 0 0).cfg = true ∧ ((filtering 0x7FF#29 0#1 0 0).ctl .can1).filterCount < 14 ∧
      ((filtering 0x7FF#29 0#1 0 0).ports.argFmt = 0#1 → (filtering 0x7FF#29 0#1 0 0).ports.argId.toNat < 0x800) ∧
      (0 : Fin 28).val = (filtering 0x7FF#29 0#1 0 0).cfg.bankBase .can1 +
        ((filtering 0x7FF#29 0#1 0 0).ctl .can1).filterCount) ∧
    (configurationOk (filtering 0x1FFFFFFF#29 1#1 0 13).cfg = true ∧
      ((filtering 0x1FFFFFFF#29 1#1 0 13).ctl .can2).filterCount < 14 ∧
      ((filtering 0x1FFFFFFF#29 1#1 0 13).ports.argFmt = 0#1 →
        (filtering 0x1FFFFFFF#29 1#1 0 13).ports.argId.toNat < 0x800) ∧
      (27 : Fin 28).val = (filtering 0x1FFFFFFF#29 1#1 0 13).cfg.bankBase .can2 +
        ((filtering 0x1FFFFFFF#29 1#1 0 13).ctl .can2).filterCount) := by decide

theorem witness_SaturatedInstallTouchesNothing : ((filtering 0x100#29 0#1 14 0).ctl .can1).filterCount ≥ 14 := by decide

theorem witness_InvalidFilterIdTouchesNothing :
    ((filtering 0x800#29 0#1 13 0).ctl .can1).filterCount < 14 ∧ (filtering 0x800#29 0#1 13 0).ports.argFmt = 0#1 ∧
      (filtering 0x800#29 0#1 13 0).ports.argId.toNat ≥ 0x800 := by decide

/-- Both disjuncts: an install of can2 moves its cursor and leaves that of can1. -/
theorem witness_FilterCountChangesOnlyBySuccessfulInstall :
    ∃ t, exec (.fltInstall .can2) (filtering 0x100#29 0#1 3 13) = .next t ∧ (t.ctl .can2).filterCount = 14 ∧
      (t.ctl .can1).filterCount = 3 :=
  ⟨_, rfl, by decide⟩

/-- The banks and bits just outside the range of each instance. -/
theorem witness_CommandsLeaveTheOtherInstanceAlone :
    configurationOk (filtering 0x100#29 0#1 13 0).cfg = true ∧
    (∃ t, exec (.fltInstall .can1) (filtering 0x100#29 0#1 13 0) = .next t) ∧
      (filtering 0x100#29 0#1 13 0).cfg.bankBase .can1 + 13 < (14 : Fin 28).val ∧
      (13 : Fin 28).val < (filtering 0x100#29 0#1 13 0).cfg.bankBase .can2 :=
  ⟨by decide, ⟨_, rfl⟩, by decide, by decide⟩

theorem witness_IdentifierAndFormatArePreserved_standard :
    (0x7FF#29).toNat ≤ 0x7FF ∧
      (0xFFFFFFFB#32).extractLsb' 21 11 = (encodeIdWord 0x7FF#29 .standard .remote).extractLsb' 21 11 ∧
      (0xFFFFFFFB#32).extractLsb' 1 2 = (encodeIdWord 0x7FF#29 .standard .remote).extractLsb' 1 2 := by decide
theorem witness_IdentifierAndFormatArePreserved_extended :
    (0x00003FFD#32).extractLsb' 1 31 = (encodeIdWord 0x7FF#29 .extended .data).extractLsb' 1 31 := by decide

theorem witness_PayloadBytesAreLittleEndian :
    (packLow bytes11).extractLsb' 24 8 = bytes11[3] ∧ (packHigh bytes11).extractLsb' 24 8 = bytes11[7] := by decide

theorem witness_ValidationReportsFirstFailingCheck :
    ({ msg123 with identifier := 0x800#29, length := 9#4 } : Message).identifierFits = false ∧
      ({ msg123 with length := 9#4 } : Message).identifierFits = true ∧
      ({ msg123 with length := 9#4 } : Message).length.toNat > 8 ∧
      ({ msg123 with length := 8#4 } : Message).valid = true := by decide

theorem witness_DecodedMessagesAreValid :
    (0xFFFFFFF8#32).toNat % 16 ≤ 8 ∧ (0x00000009#32).toNat % 16 > 8 := by decide

/-- V-RT1 with the ignored bits set, and payload words that differ past the length of 3. -/
theorem witness_CodecRoundTripsEveryValidMessage :
    msg123.valid = true ∧ (0x24600001#32).extractLsb' 1 31 = (encodeMsg msg123).ti.extractLsb' 1 31 ∧
      (0xFFFFFFF3#32).extractLsb' 0 4 = (encodeMsg msg123).tdt.extractLsb' 0 4 ∧
      ∀ (n : Nat) (h : n < 8), n < msg123.length.toNat → (unpack 0x00332211#32 0#32)[n] = msg123.payload[n] := by
  refine ⟨by decide, by decide, by decide, ?_⟩
  intro n h hn
  have hn' : n < 3 := hn
  interval_cases n <;> rfl

theorem witness_TxLoadWritesTheMailbox :
    (loading msg123 true).ports.argMsg.valid = true ∧ ((loading msg123 true).ctl .can1).mb0Empty = true := by decide

theorem witness_TxLoadRejectsInvalidMessages :
    (loading { msg123 with identifier := 0x800#29 } true).ports.argMsg.identifierFits = false ∧
      (loading { msg123 with length := 9#4 } true).ports.argMsg.identifierFits = true ∧
      (loading { msg123 with length := 9#4 } true).ports.argMsg.length.toNat > 8 := by decide

theorem witness_BusyMailboxIsAModelFault :
    (loading msg123 false).ports.argMsg.valid = true ∧ ((loading msg123 false).ctl .can1).mb0Empty = false := by decide

theorem witness_TxRequestSetsTheRequestBit : (loadedState.ctl .can1).txLoaded = true := by decide

theorem witness_RequestWithoutLoadIsAModelFault : (State.reset.ctl .can1).txLoaded = false := by decide

theorem witness_RxDecodeStoresThePendingFrame :
    ((receiving 1#32 0x24600000#32 0x8#32 0#32 0#32).image (.can .can1 .rf0r)).extractLsb' 0 2 ≠ 0#2 ∧
      ((receiving 1#32 0x24600000#32 0x8#32 0#32 0#32).image (.can .can1 .rdt0r)).toNat % 16 ≤ 8 := by decide

theorem witness_RxDecodeFaultsOnEmptyOrBadLength :
    ((receiving 0x18#32 0#32 0x9#32 0#32 0#32).image (.can .can1 .rf0r)).extractLsb' 0 2 = 0#2 ∧
      ((receiving 3#32 0#32 0x9#32 0#32 0#32).image (.can .can1 .rf0r)).extractLsb' 0 2 ≠ 0#2 ∧
      ((receiving 3#32 0#32 0x9#32 0#32 0#32).image (.can .can1 .rdt0r)).toNat % 16 > 8 := by decide

/-- A decode that faults for its DLC, and one that succeeds. -/
theorem witness_RxDecodeMayBeRepeated :
    (∃ t, exec (.rxDecode .can1) (receiving 1#32 0#32 0x9#32 0#32 0#32) = .next t ∧ t.can1.status = 0x31#8) ∧
      ∃ t, exec (.rxDecode .can1) (receiving 1#32 0#32 0x8#32 0#32 0#32) = .next t ∧ t.can1.status = 0x00#8 :=
  ⟨⟨_, rfl, by decide⟩, ⟨_, rfl, by decide⟩⟩

theorem witness_PendingRxIsWrittenOnlyByRxDecode :
    ∃ t, exec (.rxDecode .can1) (receiving 1#32 0x24600000#32 0x12340103#32 0x44332211#32 0x88776655#32) = .next t ∧
      (t.ctl .can1).pendingRx = some msg123 ∧ State.reset.can1.pendingRx ≠ some msg123 :=
  ⟨_, rfl, by decide, by decide⟩

theorem witness_HandlerReleasesEachEntryOnce :
    gives (pseudoReceive .can1 (receiving 1#32 0x24600000#32 0x9#32 0#32 0#32)) (fun t => t.bus.length == 6) = true ∧
      gives (pseudoReceive .can1 State.reset) (fun t => t.bus.length == 1) = true := by decide

/-- P1 and P2: what the peripheral shows after a loopback meets every premise. -/
theorem witness_SentMessagesAreReceivedUnchanged :
    msg123.valid = true ∧ (State.reset.ctl .can1).mb0Empty = true ∧ shownRx1.fmp0 ≠ 0#2 ∧
      gives (pseudoSend .can1 msg123 State.reset) (fun t =>
        shownRx1.ri0r.extractLsb' 1 31 == (t.image (.can .can1 .ti0r)).extractLsb' 1 31 &&
          shownRx1.rdt0r.extractLsb' 0 4 == (t.image (.can .can1 .tdt0r)).extractLsb' 0 4 &&
          shownRx1.rdl0r == t.image (.can .can1 .tdl0r) && shownRx1.rdh0r == t.image (.can .can1 .tdh0r)) = true := by
  decide

/-- A line of each kind waits in the inbox, the payload lists empty, short and full. -/
theorem witness_AssembledLinesRunTheirCommand :
    configurationOk State.reset.cfg = true ∧
      (∀ l ∈ [AsmLine.btProgram .can1 42000000#32 500000#32, .setTestMode .can1 .silentLoopback,
          .fltInstall .can2 0x123#29 .extended, .txLoad .can1 .standard 0x123#29 .data 3#4 [0x11#8], .txRequest .can1,
          .rxDecode .can2, .rxRelease .can2],
        ({ State.reset with inbox := assemble l State.reset.ports } : State).inbox =
          assemble l State.reset.ports ++ []) ∧
      (#v[0x11#8, 0#8, 0#8, 0#8, 0#8, 0#8, 0#8, 0#8] : Vector Byte 8).toList =
        [0x11#8] ++ List.replicate (8 - [0x11#8].length) 0x00#8 ∧
      bytes11.toList = bytes11.toList ++ List.replicate (8 - bytes11.toList.length) 0x00#8 ∧
      (Vector.replicate 8 0#8 : Vector Byte 8).toList = [] ++ List.replicate (8 - ([] : List Byte).length) 0x00#8 := by
  decide

theorem witness_CommandsIgnoreUnnamedPorts :
    NamedPortsAgree (.setTestMode .can1) Ports.idle { Ports.idle with argClock := 1#32, argMsg := msg123 } ∧
      Ports.idle ≠ { Ports.idle with argClock := 1#32, argMsg := msg123 } := by
  refine ⟨rfl, by decide⟩

theorem witness_FaultsArePrecise :
    ∃ t, exec (.btProgram .can1) (clocked 7#32 0#32) = .next t ∧ t.modelFault = none ∧
      StatusCode.btRateZero.isFault = true ∧ (t.ctl .can1).status = StatusCode.btRateZero.code :=
  ⟨_, rfl, by decide, by decide, by decide⟩

/-- Both directions: a fault sets the latch, and a command that ends OK leaves a set one. -/
theorem witness_LatchIsSetExactlyByFaultCodes :
    (∃ t, exec (.btProgram .can1) (clocked 7#32 0#32) = .next t ∧ t.modelFault = none ∧ t.can1.faultLatch = true) ∧
      ∃ t, exec (.rxRelease .can1) busyState = .next t ∧ t.modelFault = none ∧ t.can1.faultLatch = true ∧
        isFaultCode t.can1.status = false :=
  ⟨⟨_, rfl, by decide, by decide⟩, ⟨_, rfl, by decide, by decide, by decide⟩⟩

/-- A step with and a step without the reset signal, the latch set. -/
theorem witness_OnlyResetClearsTheFaultLatch :
    (busyState.ctl .can1).faultLatch = true ∧
      gives (step { busyState with inbox := [.reset .named] }) (fun t => !(t.ctl .can1).faultLatch) = true ∧
      gives (run busyState 0x01) (fun t => (t.ctl .can1).faultLatch) = true := by decide

theorem witness_ModelFaultIsNeverCleared :
    gives (step { State.reset with modelFault := some .txNotLoaded, inbox := [.reset .named] })
      (fun t => t.modelFault == some .txNotLoaded) = true := by decide

theorem witness_ModelFaultsAriseOnlyAsListed :
    (∃ t, exec (.txLoad .can1) (loading msg123 false) = .next t ∧ t.modelFault ≠ (loading msg123 false).modelFault) ∧
      ∃ t, exec (.txRequest .can2) State.reset = .next t ∧ t.modelFault ≠ State.reset.modelFault :=
  ⟨⟨_, rfl, by decide⟩, ⟨_, rfl, by decide⟩⟩

theorem witness_ReadingUnwrittenPendingRxFaults :
    configurationOk State.reset.cfg = true ∧ (State.reset.ctl .can1).pendingRx = none ∧
      configurationOk busyState.cfg = true ∧ (busyState.ctl .can1).pendingRx = some msg123 ∧
      ({ busyState with inbox := [.observe (.pendingRx .can1)] } : State).inbox = .observe (.pendingRx .can1) :: [] := by
  decide

theorem witness_ResetGivesEveryElementItsTableValue :
    configurationOk busyState.cfg = true ∧
      ({ busyState with inbox := [.reset .named] } : State).inbox = .reset .named :: [] := by decide

theorem witness_ReceiveAndApplicationCommandsCommute :
    (Instr.txLoad .can1).isReceive = false ∧ (Instr.rxRelease .can1).isReceive = true ∧
      (Instr.txLoad .can1).inst ≠ (Instr.rxRelease .can2).inst := by decide

/-- `busyState` with every word changed that its own state leaves unspecified: the mailbox and FIFO of can2, and a bank not
installed. -/
def busyTwin : State :=
  { busyState with
    can2 := { busyState.can2 with
      ti0r := 0x10#32, tdt0r := 1#32, tdl0r := 2#32, tdh0r := 3#32, ri0r := 4#32, rdt0r := 5#32, rdl0r := 6#32
      rdh0r := 7#32 }
    filter := { busyState.filter with banks := busyState.filter.banks.set 1 ⟨8#32, 9#32⟩ } }

/-- Two different states that agree, each with a step, and a register equal in both. -/
theorem witness_UnspecifiedValuesNeverReachAResult :
    StatesAgree busyState busyTwin ∧ busyState ≠ busyTwin ∧ (∃ u, step busyState = .next u) ∧
      (∃ v, step busyTwin = .next v) ∧ busyState.image (.can .can1 .ti0r) = busyTwin.image (.can .can1 .ti0r) := by
  refine ⟨?_, by decide, ⟨_, rfl⟩, ⟨_, rfl⟩, by decide⟩
  refine ⟨rfl, ?_, ?_, rfl, rfl, rfl, rfl, rfl, ?_, rfl, rfl, rfl, rfl⟩
  · simp only [ControllersAgree]; decide
  · simp only [ControllersAgree]; decide
  · simp only [Installed, InstalledBy]; decide

theorem witness_ResetStatesAgreeWhereSpecified :
    Unspecified.named.can1.mb0Empty =
        ({ Unspecified.named with banks := Vector.replicate 28 ⟨0#32, 1#32⟩ } : Unspecified).can1.mb0Empty ∧
      Unspecified.named ≠ { Unspecified.named with banks := Vector.replicate 28 ⟨0#32, 1#32⟩ } := by decide

/-- A state other than reset that meets the block invariant, and a step from it. -/
theorem witness_EveryStepKeepsTheBlockInvariant :
    BlockInv busyState ∧ gives (run busyState 0x05) (fun t => !t.can1.txLoaded && t.can1.faultLatch) = true := by
  refine ⟨⟨⟨by decide, by decide, by decide, ?_, by decide, ?_, by decide, by decide⟩,
    ⟨by decide, by decide, by decide, ?_, by decide, ?_, by decide, by decide⟩, by decide, by decide⟩, by decide⟩
  · intro m h; cases h; decide
  · intro _; exact ⟨msg123, by decide, by decide, by decide, by decide, by decide⟩
  · intro m h; cases h
  · intro h; cases h

/-- A state with one bank installed meets the filter invariant, and a step from it installs another. -/
theorem witness_EveryStepKeepsTheFilterInvariant :
    FilterInv busyState ∧ gives (run busyState 0x03) (fun t => t.can1.filterCount == 2 && t.filter.fa1r == 3#32) = true := by
  refine ⟨⟨by decide, ?_, ?_, ?_, by decide, ?_, by decide⟩, by decide⟩ <;>
    (simp only [Installed, InstalledBy, IsFilterWord]; decide)

end Sys2Proof.Tests
end

section
/-! PROOFS. The obligations about the state of the block (10_state.md): what a command and a step leave unchanged, the
fault latch and the model-fault mark, and the two invariants at reset and, for the block invariant, over every step. -/

/-! ## Rules: the named updates of one instance, and the two register sequences -/

namespace Sys2Proof.Machine

open Sys2Proof.Safety

@[simp] theorem State.ctl_withPorts (s : State) (p : Ports) (i : Inst) :
    State.ctl { s with ports := p } i = s.ctl i := by cases i <;> rfl
@[simp] theorem State.ctl_withInbox (s : State) (l : List Event) (i : Inst) :
    State.ctl { s with inbox := l } i = s.ctl i := by cases i <;> rfl
@[simp] theorem State.ctl_withModelFault (s : State) (r : Option ModelFault) (i : Inst) :
    State.ctl { s with modelFault := r } i = s.ctl i := by cases i <;> rfl

@[simp] theorem writeStatus_ctl (i : Inst) (c : StatusCode) (s : State) :
    (writeStatus i c s).ctl i = { s.ctl i with status := c.code } := State.ctl_mapCtl_same ..
@[simp] theorem writeStatus_ctl_other (i : Inst) (c : StatusCode) (s : State) :
    (writeStatus i c s).ctl i.other = s.ctl i.other := State.ctl_mapCtl_other ..
@[simp] theorem writeStatus_filter (i : Inst) (c : StatusCode) (s : State) :
    (writeStatus i c s).filter = s.filter := State.mapCtl_filter ..

@[simp] theorem raiseFault_ctl (i : Inst) (c : StatusCode) (s : State) :
    (raiseFault i c s).ctl i = { s.ctl i with status := c.code, faultLatch := true } := State.ctl_mapCtl_same ..
@[simp] theorem raiseFault_ctl_other (i : Inst) (c : StatusCode) (s : State) :
    (raiseFault i c s).ctl i.other = s.ctl i.other := State.ctl_mapCtl_other ..
@[simp] theorem raiseFault_filter (i : Inst) (c : StatusCode) (s : State) :
    (raiseFault i c s).filter = s.filter := State.mapCtl_filter ..

@[simp] theorem setTxLoaded_ctl (i : Inst) (b : Bool) (s : State) :
    (setTxLoaded i b s).ctl i = { s.ctl i with txLoaded := b } := State.ctl_mapCtl_same ..
@[simp] theorem setTxLoaded_ctl_other (i : Inst) (b : Bool) (s : State) :
    (setTxLoaded i b s).ctl i.other = s.ctl i.other := State.ctl_mapCtl_other ..
@[simp] theorem setTxLoaded_filter (i : Inst) (b : Bool) (s : State) :
    (setTxLoaded i b s).filter = s.filter := State.mapCtl_filter ..

@[simp] theorem setRxHeld_ctl (i : Inst) (b : Bool) (s : State) :
    (setRxHeld i b s).ctl i = { s.ctl i with rxHeld := b } := State.ctl_mapCtl_same ..
@[simp] theorem setRxHeld_ctl_other (i : Inst) (b : Bool) (s : State) :
    (setRxHeld i b s).ctl i.other = s.ctl i.other := State.ctl_mapCtl_other ..
@[simp] theorem setRxHeld_filter (i : Inst) (b : Bool) (s : State) :
    (setRxHeld i b s).filter = s.filter := State.mapCtl_filter ..

@[simp] theorem setPendingRx_ctl (i : Inst) (m : Message) (s : State) :
    (setPendingRx i m s).ctl i = { s.ctl i with pendingRx := some m } := State.ctl_mapCtl_same ..
@[simp] theorem setPendingRx_ctl_other (i : Inst) (m : Message) (s : State) :
    (setPendingRx i m s).ctl i.other = s.ctl i.other := State.ctl_mapCtl_other ..
@[simp] theorem setPendingRx_filter (i : Inst) (m : Message) (s : State) :
    (setPendingRx i m s).filter = s.filter := State.mapCtl_filter ..

@[simp] theorem advanceFilterCount_ctl (i : Inst) (s : State) :
    (advanceFilterCount i s).ctl i = { s.ctl i with filterCount := (s.ctl i).filterCount + 1 } :=
  State.ctl_mapCtl_same ..
@[simp] theorem advanceFilterCount_ctl_other (i : Inst) (s : State) :
    (advanceFilterCount i s).ctl i.other = s.ctl i.other := State.ctl_mapCtl_other ..
@[simp] theorem advanceFilterCount_filter (i : Inst) (s : State) :
    (advanceFilterCount i s).filter = s.filter := State.mapCtl_filter ..

@[simp] theorem showPeripheral_ctl_other (i : Inst) (p : PeripheralInputs) (s : State) :
    (showPeripheral i p s).ctl i.other = s.ctl i.other := State.ctl_mapCtl_other ..
@[simp] theorem showPeripheral_filter (i : Inst) (p : PeripheralInputs) (s : State) :
    (showPeripheral i p s).filter = s.filter := State.mapCtl_filter ..
@[simp] theorem showPeripheral_modelFault (i : Inst) (p : PeripheralInputs) (s : State) :
    (showPeripheral i p s).modelFault = s.modelFault := State.mapCtl_modelFault ..

/-- The peripheral never drives the fault latch (R38, R55). -/
@[simp] theorem showPeripheral_faultLatch (i j : Inst) (p : PeripheralInputs) (s : State) :
    ((showPeripheral i p s).ctl j).faultLatch = (s.ctl j).faultLatch := by
  cases i <;> cases j <;> rfl

@[simp] theorem applyReset_ctl_faultLatch (u : Unspecified) (s : State) (i : Inst) :
    ((applyReset u s).ctl i).faultLatch = false := by cases i <;> rfl

@[simp] theorem fieldWrite_can_ctl (i : Inst) (r : CanReg) (hi lo : Nat) (v : Word) (s : State) :
    (fieldWrite (.can i r) hi lo v s).ctl i =
      (s.ctl i).store r (insertField (s.image (.can i r)) hi lo v) := by simp [fieldWrite_eq]
@[simp] theorem fieldWrite_can_ctl_other (i : Inst) (r : CanReg) (hi lo : Nat) (v : Word) (s : State) :
    (fieldWrite (.can i r) hi lo v s).ctl i.other = s.ctl i.other := by simp [fieldWrite_eq]
@[simp] theorem fieldWrite_can_filter (i : Inst) (r : CanReg) (hi lo : Nat) (v : Word) (s : State) :
    (fieldWrite (.can i r) hi lo v s).filter = s.filter := by simp [fieldWrite_eq]

@[simp] theorem loadMailbox_ctl (i : Inst) (w : MailboxWords) (s : State) :
    (loadMailbox i w s).ctl i = { s.ctl i with ti0r := w.ti, tdt0r := w.tdt, tdl0r := w.tdl, tdh0r := w.tdh } := by
  simp [loadMailbox, Controller.store]
@[simp] theorem loadMailbox_ctl_other (i : Inst) (w : MailboxWords) (s : State) :
    (loadMailbox i w s).ctl i.other = s.ctl i.other := by simp [loadMailbox]
@[simp] theorem loadMailbox_filter (i : Inst) (w : MailboxWords) (s : State) :
    (loadMailbox i w s).filter = s.filter := by simp [loadMailbox]

@[simp] theorem programBank_ctl (k : Fin 28) (w : Word) (s : State) (i : Inst) :
    (programBank k w s).ctl i = s.ctl i := by simp [programBank, fieldWrite_eq]

@[simp] theorem afterFifoReads_ctl (i j : Inst) (s : State) : (afterFifoReads i s).ctl j = s.ctl j := by
  cases j <;> rfl
@[simp] theorem afterFifoReads_filter (i : Inst) (s : State) : (afterFifoReads i s).filter = s.filter := rfl

/-! ## Facts about words -/

/-- Setting bit `k` passes every other bit back. -/
theorem getLsbD_or_bit_ne (x : Word) {k n : Nat} (hk : k < 32) (h : n ≠ k) :
    (x ||| 1#32 <<< k).getLsbD n = x.getLsbD n := by
  rw [BitVec.getLsbD_or, getLsbD_bit k n hk, decide_eq_false h, Bool.or_false]

/-- Clearing bit `k` passes every other bit back. -/
theorem getLsbD_and_not_bit_ne (x : Word) {k n : Nat} (hk : k < 32) (h : n ≠ k) :
    (x &&& ~~~(1#32 <<< k)).getLsbD n = x.getLsbD n := by
  rw [BitVec.getLsbD_and, BitVec.getLsbD_not, getLsbD_bit k n hk, decide_eq_false h]
  by_cases hn : n < 32
  · simp [hn]
  · simp [hn, BitVec.getLsbD_of_ge x n (by omega)]

/-- A bank's bit is below bit 28, so setting it leaves bits 31:28. -/
theorem extract_reserved_or_bit (x : Word) (k : Fin 28) :
    (x ||| 1#32 <<< k.val).extractLsb' 28 4 = x.extractLsb' 28 4 := by
  apply BitVec.eq_of_getLsbD_eq
  intro n _
  rw [BitVec.getLsbD_extractLsb', BitVec.getLsbD_extractLsb', getLsbD_or_bit_ne x (by omega) (by omega)]

/-- A bank's bit is below bit 28, so clearing it leaves bits 31:28. -/
theorem extract_reserved_and_not_bit (x : Word) (k : Fin 28) :
    (x &&& ~~~(1#32 <<< k.val)).extractLsb' 28 4 = x.extractLsb' 28 4 := by
  apply BitVec.eq_of_getLsbD_eq
  intro n _
  rw [BitVec.getLsbD_extractLsb', BitVec.getLsbD_extractLsb', getLsbD_and_not_bit_ne x (by omega) (by omega)]

/-- Masking FINIT leaves bits 31:1 (R129). -/
theorem extract_and_finit_mask (x : Word) : (x &&& 0xFFFFFFFE#32).extractLsb' 1 31 = x.extractLsb' 1 31 := by
  apply BitVec.eq_of_getLsbD_eq
  intro n hn
  simp only [BitVec.getLsbD_extractLsb', BitVec.getLsbD_and]
  interval_cases n <;> simp

/-- The reserved bits of `btrWord` are 0 (R75). -/
theorem btrWord_reserved (p : Nat) (sjw tb : BitVec 2) : btrWord p sjw tb &&& 0x3C80FC00#32 = 0#32 := by
  rw [btrWord_fields]
  apply BitVec.eq_of_getLsbD_eq
  intro n hn
  simp only [BitVec.getLsbD_append, BitVec.getLsbD_and]
  interval_cases n <;> simp

/-- `SET_TEST_MODE` passes BTR's reserved bits back (R109). -/
theorem testModeWord_reserved (x : Word) (b : BitVec 2) :
    ((x &&& 0x3FFFFFFF#32) ||| (b.setWidth 32 <<< 30)) &&& 0x3C80FC00#32 = x &&& 0x3C80FC00#32 := by
  apply BitVec.eq_of_getLsbD_eq
  intro n hn
  simp only [BitVec.getLsbD_and, BitVec.getLsbD_or, BitVec.getLsbD_shiftLeft]
  interval_cases n <;> simp

/-- `SET_TEST_MODE` writes its two bits at 31:30 (R108, R109). -/
theorem testModeWord_testBits (x : Word) (b : BitVec 2) :
    ((x &&& 0x3FFFFFFF#32) ||| (b.setWidth 32 <<< 30)).extractLsb' 30 2 = b := by
  apply BitVec.eq_of_getLsbD_eq
  intro n hn
  simp only [BitVec.getLsbD_extractLsb', BitVec.getLsbD_and, BitVec.getLsbD_or, BitVec.getLsbD_shiftLeft,
    BitVec.getLsbD_setWidth]
  interval_cases n <;> simp

/-- R108's table is read back as it is written. -/
theorem testModeOfBits_testModeBits (m : TestMode) : testModeOfBits (testModeBits m) = m := by
  cases m <;> rfl

/-- The peripheral does not drive RF0R's reserved bits (R36, R55). -/
theorem rf0rShown_reserved (old : Word) (p : PeripheralInputs) :
    rf0rShown old p &&& 0xFFFFFFC4#32 = old &&& 0xFFFFFFC4#32 := by
  rw [rf0rShown_fields]
  apply BitVec.eq_of_getLsbD_eq
  intro n hn
  simp only [BitVec.getLsbD_append, BitVec.getLsbD_and, BitVec.getLsbD_extractLsb']
  interval_cases n <;> simp

/-- The release write leaves 0 in RF0R's reserved bits (R36, R159). -/
theorem rf0rAfterWrite_release_reserved (old : Word) :
    rf0rAfterWrite old 0x00000020#32 &&& 0xFFFFFFC4#32 = 0#32 := by
  rw [rf0rAfterWrite_release_fields]
  apply BitVec.eq_of_getLsbD_eq
  intro n hn
  simp only [BitVec.getLsbD_append, BitVec.getLsbD_and]
  interval_cases n <;> simp

/-- The release write sets RFOM0 (R159). -/
theorem rf0rAfterWrite_release_rfom0 (old : Word) : (rf0rAfterWrite old 0x00000020#32).getLsbD 5 = true := by
  rw [rf0rAfterWrite_release_fields]
  simp only [BitVec.getLsbD_append]
  simp

/-- The release write keeps the pending count (R36). -/
theorem rf0rAfterWrite_release_fmp0 (old : Word) :
    (rf0rAfterWrite old 0x00000020#32).extractLsb' 0 2 = old.extractLsb' 0 2 := by
  rw [rf0rAfterWrite_release_fields]
  apply BitVec.eq_of_getLsbD_eq
  intro n hn
  simp only [BitVec.getLsbD_append, BitVec.getLsbD_extractLsb']
  interval_cases n <;> simp

/-- The peripheral's TXRQ bit in place of bit 0 leaves bits 31:1 (R55). -/
theorem extract_append_txrq (x : Word) (b : BitVec 1) :
    (x.extractLsb' 1 31 ++ b : Word).extractLsb' 1 31 = x.extractLsb' 1 31 := by
  apply BitVec.eq_of_getLsbD_eq
  intro n hn
  simp only [BitVec.getLsbD_extractLsb', BitVec.getLsbD_append]
  simp

/-! ## The frame of a command (R42, R130) -/

/-- The bank an install below saturation programs, in an admitted configuration (R120, R121). -/
theorem bankIndex_val {i : Inst} {s : State} (hc : configurationOk s.cfg = true) (h : (s.ctl i).filterCount < 14) :
    (bankIndex i s).val = s.cfg.bankBase i + (s.ctl i).filterCount := by
  have hb := (configurationOk_banks hc i).1
  exact congrArg Fin.val (bankIndex_eq i s ⟨_, show s.cfg.bankBase i + (s.ctl i).filterCount < 28 by omega⟩ rfl)

/-- `programBank_images` for FMR and the four vectors, by the fields of the filter unit. -/
theorem programBank_fields (k : Fin 28) (w : Word) (s : State) :
    (programBank k w s).filter.fm1r = s.filter.fm1r ||| 1#32 <<< k.val ∧
    (programBank k w s).filter.fs1r = s.filter.fs1r ||| 1#32 <<< k.val ∧
    (programBank k w s).filter.ffa1r = s.filter.ffa1r &&& ~~~(1#32 <<< k.val) ∧
    (programBank k w s).filter.fa1r = s.filter.fa1r ||| 1#32 <<< k.val ∧
    (programBank k w s).filter.fmr = s.filter.fmr &&& 0xFFFFFFFE#32 := by
  obtain ⟨hm, hs, hf, ha, -, -, hfmr⟩ := programBank_images k w s
  exact ⟨hm, hs, hf, ha, hfmr⟩

/-- Programming bank `k` leaves every other bit of the four vectors. -/
theorem programBank_vectors_ne (k : Fin 28) (w : Word) (s : State) {n : Nat} (h : n ≠ k.val) :
    (programBank k w s).filter.fm1r.getLsbD n = s.filter.fm1r.getLsbD n ∧
    (programBank k w s).filter.fs1r.getLsbD n = s.filter.fs1r.getLsbD n ∧
    (programBank k w s).filter.ffa1r.getLsbD n = s.filter.ffa1r.getLsbD n ∧
    (programBank k w s).filter.fa1r.getLsbD n = s.filter.fa1r.getLsbD n := by
  obtain ⟨hm, hs, hf, ha, -⟩ := programBank_fields k w s
  have hk : k.val < 32 := by omega
  rw [hm, hs, hf, ha]
  exact ⟨getLsbD_or_bit_ne _ hk h, getLsbD_or_bit_ne _ hk h, getLsbD_and_not_bit_ne _ hk h, getLsbD_or_bit_ne _ hk h⟩

/-- Programming bank `k` leaves the registers of every other bank. -/
theorem programBank_banks_ne (k : Fin 28) (w : Word) (s : State) {b : Fin 28} (h : b ≠ k) :
    (programBank k w s).filter.banks[b] = s.filter.banks[b] := by
  have he := programBank_effect .can1 k w s
  have h1 := he.images (.flt (.r1 b)) (by simp [h])
  have h2 := he.images (.flt (.r2 b)) (by simp [h])
  exact congrArg₂ Bank.mk h1 h2

/-- Programming a bank leaves every bit of FMR but FINIT (R129). -/
theorem programBank_fmr (k : Fin 28) (w : Word) (s : State) :
    (programBank k w s).filter.fmr.extractLsb' 1 31 = s.filter.fmr.extractLsb' 1 31 := by
  obtain ⟨-, -, -, -, hfmr⟩ := programBank_fields k w s
  rw [hfmr, extract_and_finit_mask]

/-- What any command leaves: the other instance, and the filter unit but for one bank that an install below saturation
programs. -/
theorem exec_frame {a : Instr} {s t : State} (h : exec a s = .next t) :
    t.ctl a.inst.other = s.ctl a.inst.other ∧
      (t.filter = s.filter ∨ (s.ctl a.inst).filterCount < 14 ∧
        t.filter = (programBank (bankIndex a.inst s) (filterWord (argId s) (argFmt s)) s).filter) := by
  cases a with
  | btProgram i =>
    simp only [exec, execBtProgram] at h
    split at h <;> cases h <;> simp [Instr.inst]
  | setTestMode i => cases h; simp [Instr.inst]
  | fltInstall i =>
    simp only [exec, execFltInstall] at h
    split at h
    · cases h; simp [Instr.inst]
    split at h
    · cases h; simp [Instr.inst]
    · rename_i hcount _
      cases h
      exact ⟨by simp [Instr.inst], .inr ⟨Nat.lt_of_not_le hcount, by simp [Instr.inst]⟩⟩
  | txLoad i =>
    simp only [exec, execTxLoad] at h
    split at h
    · cases h; simp [Instr.inst]
    split at h
    · cases h; simp [Instr.inst]
    · cases h; simp [Instr.inst]
  | txRequest i =>
    simp only [exec, execTxRequest] at h
    split at h
    · cases h; simp [Instr.inst]
    · cases h; simp [Instr.inst]
  | rxDecode i =>
    simp only [exec] at h
    by_cases hp : (s.image (.can i .rf0r)).extractLsb' 0 2 = 0#2
    · rw [execRxDecode_of_empty i s hp] at h
      cases h; simp [Instr.inst]
    · rw [execRxDecode_of_pending i s hp] at h
      split at h <;> cases h <;> simp [Instr.inst]
  | rxRelease i => cases h; simp [Instr.inst]

/-! ## What a step does -/

/-- In an admitted configuration a step with nothing presented waits. -/
theorem step_of_empty {s : State} (hc : configurationOk s.cfg = true) (hi : s.inbox = []) : step s = .next s := by
  rw [step, takeEvent, if_pos hc, hi]

/-- In an admitted configuration a step takes the next event. -/
theorem step_of_event {s : State} {e : Event} {rest : List Event} (hc : configurationOk s.cfg = true)
    (hi : s.inbox = e :: rest) : step s = handle e { s with inbox := rest } := by
  rw [step, takeEvent, if_pos hc, hi]

/-- An illegal word ends as a fault (R84). -/
theorem illegalCommand_ends (i : Inst) (s : State) : Ends i s (illegalCommand i s) :=
  .faulted .illegalCommand [] rfl (by simp) (raiseFault_faulted i _ s)

/-- An effect that keeps a set latch of its own instance keeps the set latches of both. -/
theorem faultLatch_kept_of_effect {i j : Inst} {w : List Reg} {m : List Access} {n : Internal} {s t : State}
    (h : Effect i w m n s t) (hown : (s.ctl i).faultLatch = true → n.faultLatch = true)
    (hl : (s.ctl j).faultLatch = true) : (t.ctl j).faultLatch = true := by
  obtain rfl | rfl := Inst.eq_or_other i j
  · exact (congrArg Internal.faultLatch h.own).trans (hown hl)
  · exact (congrArg Internal.faultLatch h.other).trans hl

/-- No way to end a command clears a latch, of either instance (R24, R178). -/
theorem Ends.keeps_faultLatch {i : Inst} {s t : State} (h : Ends i s t) {j : Inst}
    (hl : (s.ctl j).faultLatch = true) : (t.ctl j).faultLatch = true := by
  cases h with
  | faulted c made hf hr h => exact faultLatch_kept_of_effect h (fun _ => rfl) hl
  | marked r h => subst h; simpa using hl
  | done c w m now hf hs hlatch h => exact faultLatch_kept_of_effect h hlatch.trans hl

/-- No way to end a command clears the model-fault mark (R28, R176). -/
theorem Ends.keeps_modelFault {i : Inst} {s t : State} (h : Ends i s t) (hm : s.modelFault ≠ none) :
    t.modelFault ≠ none := by
  cases h with
  | faulted c made hf hr h => rwa [h.outside.modelFault]
  | marked r h => subst h; simp
  | done c w m now hf hs hl h => rwa [h.outside.modelFault]

/-- One event but reset keeps a set latch (R24, R178); reset clears it (R201). -/
theorem handle_faultLatch {e : Event} {s t : State} (h : handle e s = .next t) {i : Inst}
    (hl : (s.ctl i).faultLatch = true) : (t.ctl i).faultLatch = true ↔ ∀ u, e ≠ .reset u := by
  obtain ⟨w, a, rfl, -, hx⟩ | ⟨w, j, rfl, rfl⟩ | ⟨p, rfl, rfl⟩ | ⟨j, p, rfl, rfl⟩ | ⟨u, rfl, rfl⟩ | ⟨o, rfl, rfl⟩ :=
    handle_cases h
  · simp [(ends_of_exec hx).keeps_faultLatch hl]
  · simp [(illegalCommand_ends j s).keeps_faultLatch hl]
  · simp [hl]
  · simp [hl]
  · simp
  · simp [hl]

/-- No event clears the model-fault mark (R28, R176). -/
theorem handle_keeps_modelFault {e : Event} {s t : State} (h : handle e s = .next t) (hm : s.modelFault ≠ none) :
    t.modelFault ≠ none := by
  obtain ⟨w, a, rfl, -, hx⟩ | ⟨w, j, rfl, rfl⟩ | ⟨p, rfl, rfl⟩ | ⟨j, p, rfl, rfl⟩ | ⟨u, rfl, rfl⟩ | ⟨o, rfl, rfl⟩ :=
    handle_cases h
  · exact (ends_of_exec hx).keeps_modelFault hm
  · exact (illegalCommand_ends j s).keeps_modelFault hm
  · exact hm
  · simpa using hm
  · exact hm
  · exact hm

end Sys2Proof.Machine

/-! ## The block invariant -/

namespace Sys2Proof.Safety

open Sys2Proof.Machine

/-! ### What each update needs to keep the invariant of one instance -/

section
variable {c : Controller}

theorem ControllerInv.reset (u : ControllerUnspecified) : ControllerInv (Controller.reset u) where
  count := Nat.zero_le _
  statusKnown := isStatusCode_code .ok
  latched h := absurd h (show ¬ isFaultCode 0x00#8 = true by decide)
  pendingValid _ h := nomatch h
  heldWritten h := nomatch h
  loaded h := nomatch h
  btrReserved := show Config.btrReset &&& 0x3C80FC00#32 = 0#32 by decide
  rf0rReserved := show 0x00000000#32 &&& 0xFFFFFFC4#32 = 0#32 by decide

theorem ControllerInv.withFault (h : ControllerInv c) (code : StatusCode) :
    ControllerInv { c with status := code.code, faultLatch := true } :=
  { h with statusKnown := isStatusCode_code code, latched := fun _ => rfl }

theorem ControllerInv.withStatus (h : ControllerInv c) {code : StatusCode} (hf : code.isFault = false) :
    ControllerInv { c with status := code.code } :=
  { h with statusKnown := isStatusCode_code code, latched := by simp [hf] }

theorem ControllerInv.withCount (h : ControllerInv c) {n : Nat} (hn : n ≤ 14) :
    ControllerInv { c with filterCount := n } :=
  { h with count := hn }

theorem ControllerInv.withBtr (h : ControllerInv c) {w : Word} (hw : w &&& 0x3C80FC00#32 = 0#32) :
    ControllerInv { c with btr := w } :=
  { h with btrReserved := hw }

theorem ControllerInv.withMessageLoaded (h : ControllerInv c) {m : Message} (hm : m.valid = true) :
    ControllerInv { c with
      ti0r := (encodeMsg m).ti
      tdt0r := (encodeMsg m).tdt
      tdl0r := (encodeMsg m).tdl
      tdh0r := (encodeMsg m).tdh
      txLoaded := true } :=
  { h with loaded := fun _ => ⟨m, hm, rfl, rfl, rfl, rfl⟩ }

theorem ControllerInv.withRequest (h : ControllerInv c) (w : Word) :
    ControllerInv { c with ti0r := w, txLoaded := false } :=
  { h with loaded := fun hl => nomatch hl }

theorem ControllerInv.withDecoded (h : ControllerInv c) {m : Message} (hm : m.valid = true) :
    ControllerInv { c with pendingRx := some m, rxHeld := true } :=
  { h with
    pendingValid := fun _ hm' => Option.some.inj hm' ▸ hm
    heldWritten := fun _ => Option.some_ne_none m }

theorem ControllerInv.withReleased (h : ControllerInv c) {w : Word} (hw : w &&& 0xFFFFFFC4#32 = 0#32) :
    ControllerInv { c with rf0r := w, rxHeld := false } :=
  { h with heldWritten := fun hh => (nomatch hh), rf0rReserved := hw }

end

/-- The peripheral's own bits are outside the invariant (R38, R55). -/
theorem ControllerInv.peripheral {i : Inst} {s : State} (h : ControllerInv (s.ctl i)) (p : PeripheralInputs) :
    ControllerInv ((showPeripheral i p s).ctl i) := by
  rw [showPeripheral, State.ctl_mapCtl_same]
  exact
    { h with
      loaded := fun hl => by
        obtain ⟨m, hm, hti, hwords⟩ := h.loaded hl
        exact ⟨m, hm, (extract_append_txrq _ _).trans hti, hwords⟩
      rf0rReserved := (rf0rShown_reserved _ _).trans h.rf0rReserved }

/-- What validation lets through is valid (R37, R140). -/
theorem valid_of_validateMsg_ok {m : Message} {u : Unit} (h : validateMsg m = .ok u) : m.valid = true := by
  unfold validateMsg at h
  split at h
  · cases h
  split at h
  · cases h
  split at h
  · cases h
  rename_i hstd hext hlen
  cases hf : m.identifierFormat <;>
    simp_all [Message.valid, Message.identifierFits, Message.lengthFits]

/-- A decoded identifier fits its format (R71, R144). -/
theorem decodeIdWord_identifierFits (w : Word) (type : FrameType) (len : BitVec 4) (p : Vector Byte 8) :
    Message.identifierFits ⟨(decodeIdWord w).1, (decodeIdWord w).2.1, type, len, p⟩ = true := by
  by_cases hx : w.extractLsb' 2 1 = 1#1
  · have hlt := (w.extractLsb' 3 29).isLt
    simpa [Message.identifierFits, decodeIdWord, hx] using hlt
  · have hlt : ((w.extractLsb' 21 11).setWidth 29).toNat < 2 ^ 11 := by
      rw [BitVec.toNat_setWidth]
      exact (Nat.mod_le _ _).trans_lt (w.extractLsb' 21 11).isLt
    simpa [Message.identifierFits, decodeIdWord, hx] using hlt

/-- What the codec decodes is valid (R142). -/
theorem valid_of_decodeEntry_ok {ri rdt rdl rdh : Word} {m : Message} (h : decodeEntry ri rdt rdl rdh = .ok m) :
    m.valid = true := by
  unfold decodeEntry at h
  split at h <;> cases h
  rename_i hlen
  rw [Message.valid, decodeIdWord_identifierFits]
  simpa [Message.lengthFits] using hlen

/-! ### Every command keeps the invariant of its own instance -/

section
variable {i : Inst} {s t : State}

theorem execBtProgram_keeps_controllerInv (hinv : ControllerInv (s.ctl i)) (h : execBtProgram i s = .next t) :
    ControllerInv (t.ctl i) := by
  unfold execBtProgram at h
  split at h <;> cases h
  · simpa using hinv.withFault _
  · simpa [Controller.store] using (hinv.withBtr (btrWord_reserved _ _ _)).withStatus (bitTimingStatus_isFault _)

theorem execSetTestMode_keeps_controllerInv (hinv : ControllerInv (s.ctl i)) (h : execSetTestMode i s = .next t) :
    ControllerInv (t.ctl i) := by
  cases h
  have hw := (testModeWord_reserved (s.ctl i).btr (testModeBits (argMode s))).trans hinv.btrReserved
  simpa [Controller.store, State.image, Controller.image] using (hinv.withBtr hw).withStatus (code := .ok) rfl

theorem execFltInstall_keeps_controllerInv (hinv : ControllerInv (s.ctl i)) (h : execFltInstall i s = .next t) :
    ControllerInv (t.ctl i) := by
  unfold execFltInstall at h
  split at h
  · cases h; simpa using hinv.withStatus (code := .noopSaturated) rfl
  split at h
  · cases h; simpa using hinv.withFault _
  · rename_i hcount _
    cases h
    simpa using (hinv.withCount (Nat.lt_of_not_le hcount)).withStatus (code := .ok) rfl

theorem execTxLoad_keeps_controllerInv (hinv : ControllerInv (s.ctl i)) (h : execTxLoad i s = .next t) :
    ControllerInv (t.ctl i) := by
  unfold execTxLoad at h
  split at h
  · cases h; simpa using hinv.withFault _
  rename_i hv
  split at h
  · cases h; simpa using hinv
  · cases h; simpa using (hinv.withMessageLoaded (valid_of_validateMsg_ok hv)).withStatus (code := .ok) rfl

theorem execTxRequest_keeps_controllerInv (hinv : ControllerInv (s.ctl i)) (h : execTxRequest i s = .next t) :
    ControllerInv (t.ctl i) := by
  unfold execTxRequest at h
  split at h
  · cases h; simpa using hinv
  · cases h; simpa [Controller.store] using (hinv.withRequest _).withStatus (code := .ok) rfl

theorem execRxDecode_keeps_controllerInv (hinv : ControllerInv (s.ctl i)) (h : execRxDecode i s = .next t) :
    ControllerInv (t.ctl i) := by
  by_cases hp : (s.image (.can i .rf0r)).extractLsb' 0 2 = 0#2
  · rw [execRxDecode_of_empty i s hp] at h
    cases h; simpa using hinv.withFault _
  · rw [execRxDecode_of_pending i s hp] at h
    split at h
    · cases h; simpa using hinv.withFault _
    · rename_i hd
      cases h; simpa using (hinv.withDecoded (valid_of_decodeEntry_ok hd)).withStatus (code := .ok) rfl

theorem execRxRelease_keeps_controllerInv (hinv : ControllerInv (s.ctl i)) (h : execRxRelease i s = .next t) :
    ControllerInv (t.ctl i) := by
  cases h
  simpa [Controller.store] using
    (hinv.withReleased (rf0rAfterWrite_release_reserved _)).withStatus (code := .ok) rfl

end

theorem exec_keeps_controllerInv {a : Instr} {s t : State} (hinv : ControllerInv (s.ctl a.inst))
    (h : exec a s = .next t) : ControllerInv (t.ctl a.inst) := by
  cases a with
  | btProgram i => exact execBtProgram_keeps_controllerInv hinv h
  | setTestMode i => exact execSetTestMode_keeps_controllerInv hinv h
  | fltInstall i => exact execFltInstall_keeps_controllerInv hinv h
  | txLoad i => exact execTxLoad_keeps_controllerInv hinv h
  | txRequest i => exact execTxRequest_keeps_controllerInv hinv h
  | rxDecode i => exact execRxDecode_keeps_controllerInv hinv h
  | rxRelease i => exact execRxRelease_keeps_controllerInv hinv h

/-! ### The filter unit's part -/

/-- The part of `BlockInv` that speaks of the filter unit (R33, R34, R129). -/
def FilterReserved (f : FilterUnit) : Prop :=
  f.fmr.extractLsb' 1 31 = Config.fmrReset.extractLsb' 1 31 ∧
    f.fm1r.extractLsb' 28 4 = 0#4 ∧ f.fs1r.extractLsb' 28 4 = 0#4 ∧
    f.ffa1r.extractLsb' 28 4 = 0#4 ∧ f.fa1r.extractLsb' 28 4 = 0#4

/-- The block invariant, by the instance a command addresses, the other one and the filter unit. -/
theorem blockInv_iff (s : State) (i : Inst) :
    BlockInv s ↔ ControllerInv (s.ctl i) ∧ ControllerInv (s.ctl i.other) ∧ FilterReserved s.filter := by
  cases i
  · exact ⟨fun h => ⟨h.can1, h.can2, h.fmrKept, h.vectorsReserved⟩, fun ⟨h1, h2, hf, hv⟩ => ⟨h1, h2, hf, hv⟩⟩
  · exact ⟨fun h => ⟨h.can2, h.can1, h.fmrKept, h.vectorsReserved⟩, fun ⟨h2, h1, hf, hv⟩ => ⟨h1, h2, hf, hv⟩⟩

/-- Banks are below 28, so programming one reaches no reserved bit (R34, R129). -/
theorem FilterReserved.programBank {s : State} (h : FilterReserved s.filter) (k : Fin 28) (w : Word) :
    FilterReserved (programBank k w s).filter := by
  obtain ⟨hfmr, hm, hs, hf, ha⟩ := h
  obtain ⟨em, es, ef, ea, -⟩ := programBank_fields k w s
  refine ⟨(programBank_fmr k w s).trans hfmr, ?_⟩
  rw [em, es, ef, ea]
  simp only [extract_reserved_or_bit, extract_reserved_and_not_bit]
  exact ⟨hm, hs, hf, ha⟩

/-! ### Every event and every step keeps the block invariant -/

theorem exec_keeps_blockInv {a : Instr} {s t : State} (hinv : BlockInv s) (h : exec a s = .next t) : BlockInv t := by
  obtain ⟨hown, hother, hfilter⟩ := (blockInv_iff s a.inst).mp hinv
  obtain ⟨fother, ffilter⟩ := exec_frame h
  refine (blockInv_iff t a.inst).mpr ⟨exec_keeps_controllerInv hown h, fother ▸ hother, ?_⟩
  rcases ffilter with hf | ⟨-, hf⟩ <;> rw [hf]
  · exact hfilter
  · exact hfilter.programBank _ _

theorem illegalCommand_keeps_blockInv {s : State} (hinv : BlockInv s) (i : Inst) : BlockInv (illegalCommand i s) := by
  obtain ⟨hown, hother, hfilter⟩ := (blockInv_iff s i).mp hinv
  exact (blockInv_iff _ i).mpr ⟨by simpa [illegalCommand] using hown.withFault _, by simpa [illegalCommand] using hother,
    by simpa [illegalCommand] using hfilter⟩

theorem showPeripheral_keeps_blockInv {s : State} (hinv : BlockInv s) (i : Inst) (p : PeripheralInputs) :
    BlockInv (showPeripheral i p s) := by
  obtain ⟨hown, hother, hfilter⟩ := (blockInv_iff s i).mp hinv
  exact (blockInv_iff _ i).mpr ⟨hown.peripheral p, by simpa using hother, by simpa using hfilter⟩

/-- Reset meets the invariant from any state and with any unspecified values (R201, R203). -/
theorem applyReset_blockInv (u : Unspecified) (s : State) : BlockInv (applyReset u s) where
  can1 := .reset u.can1
  can2 := .reset u.can2
  fmrKept := rfl
  vectorsReserved := by simp [applyReset, FilterUnit.reset]

theorem handle_keeps_blockInv {e : Event} {s t : State} (hinv : BlockInv s) (h : handle e s = .next t) :
    BlockInv t := by
  obtain ⟨w, a, rfl, -, hx⟩ | ⟨w, j, rfl, rfl⟩ | ⟨p, rfl, rfl⟩ | ⟨j, p, rfl, rfl⟩ | ⟨u, rfl, rfl⟩ | ⟨o, rfl, rfl⟩ :=
    handle_cases h
  · exact exec_keeps_blockInv hinv hx
  · exact illegalCommand_keeps_blockInv hinv j
  · exact { hinv with }
  · exact showPeripheral_keeps_blockInv hinv j p
  · exact applyReset_blockInv u s
  · exact hinv

theorem step_keeps_blockInv {s t : State} (hinv : BlockInv s) (h : step s = .next t) : BlockInv t := by
  obtain ⟨-, ⟨-, rfl⟩ | ⟨e, rest, -, hx⟩⟩ := step_cases h
  · exact hinv
  · exact handle_keeps_blockInv (s := { s with inbox := rest }) { hinv with } hx

/-- At reset no cursor has advanced, so no bank is installed (R120, R201). -/
theorem not_installed_reset (b : Fin 28) : ¬ Installed State.reset b := by
  rintro (⟨hlo, hhi⟩ | ⟨hlo, hhi⟩)
  · exact absurd hlo (Nat.not_le_of_lt hhi)
  · exact absurd hlo (Nat.not_le_of_lt hhi)

end Sys2Proof.Safety

/-! ## The obligations -/

namespace Sys2Proof.StateProofs

open Sys2Proof.Machine Sys2Proof.Safety

/-- Settles O58: each event keeps the invariant of the instance it addresses, and leaves the other instance and the
reserved bits of the filter unit. -/
theorem everyStepKeepsTheBlockInvariant : Obligations.EveryStepKeepsTheBlockInvariant :=
  fun _ _ hinv h => step_keeps_blockInv hinv h

/-- Settles O57: `State.reset` is what a reset gives. -/
theorem resetMeetsTheBlockInvariant : Obligations.ResetMeetsTheBlockInvariant :=
  applyReset_blockInv .named State.reset

/-- Settles O59: the four vectors are 0, FINIT is 1, and no bank is installed. -/
theorem resetMeetsTheFilterInvariant : Obligations.ResetMeetsTheFilterInvariant where
  counts := ⟨Nat.zero_le _, Nat.zero_le _⟩
  active b := iff_of_false (by simp [State.reset, FilterUnit.reset]) (not_installed_reset b)
  scale b := iff_of_false (by simp [State.reset, FilterUnit.reset]) (not_installed_reset b)
  listMode b := iff_of_false (by simp [State.reset, FilterUnit.reset]) (not_installed_reset b)
  toFifo0 b := by simp [State.reset, FilterUnit.reset]
  words b h := absurd h (not_installed_reset b)
  finit := by decide

/-- Settles O15: the two bits written at 31:30 are those the table gives for the mode, and at reset they are 00. -/
theorem testModeReadsBackFromBtr : Obligations.TestModeReadsBackFromBtr := by
  refine ⟨fun i s => ⟨_, rfl, ?_⟩, fun i u s h => ?_⟩
  · simp only [testMode, writeStatus_ctl, regWrite_can_ctl, Controller.store, testModeWord_testBits,
      testModeOfBits_testModeBits, argMode]
    generalize s.ports.argMode = b
    revert b
    decide
  · rw [testMode, h]
    exact show testModeOfBits (Config.btrReset.extractLsb' 30 2) = .normal by decide

/-- Settles O22: an install programs the one bank `BANK_BASE(i) + filterCount[i]`, which lies in the range; every other
command leaves the filter unit. -/
theorem commandsLeaveTheOtherInstanceAlone : Obligations.CommandsLeaveTheOtherInstanceAlone := by
  intro a s t hc h
  obtain ⟨hother, hf | ⟨hcount, hf⟩⟩ := exec_frame h
  · simp [hother, hf]
  · have hk := bankIndex_val hc hcount
    rw [hf]
    refine ⟨hother, fun n hn => programBank_vectors_ne _ _ _ (by omega), fun b hb => ?_, programBank_fmr _ _ _⟩
    exact programBank_banks_ne _ _ _ fun hb' => by rw [hb'] at hb; omega

/-- Settles O39: the release write of 0x20 to RF0R sets RFOM0, passes FMP0 back and leaves the reserved bits 0. -/
theorem releaseKeepsThePendingCount : Obligations.ReleaseKeepsThePendingCount := by
  intro i s
  refine ⟨_, rfl, ?_⟩
  have himage : State.image (writeStatus i .ok (setRxHeld i false (regWrite (.can i .rf0r) 0x00000020#32 s)))
      (.can i .rf0r) = rf0rAfterWrite (s.image (.can i .rf0r)) 0x00000020#32 := by
    simp [State.image, Controller.image, Controller.store]
  rw [himage]
  exact ⟨rf0rAfterWrite_release_rfom0 _, rf0rAfterWrite_release_fmp0 _, rf0rAfterWrite_release_reserved _⟩

/-- Settles O47, by the three ways a command ends. -/
theorem latchIsSetExactlyByFaultCodes : Obligations.LatchIsSetExactlyByFaultCodes := by
  intro a s t h hclean
  cases ends_of_exec h with
  | faulted c made hf hr h =>
    have hl : (t.ctl a.inst).faultLatch = true := congrArg Internal.faultLatch h.own
    have hs : (t.ctl a.inst).status = c.code := congrArg Internal.status h.own
    simp [hl, hs, hf]
  | marked r h => subst h; cases hclean
  | done c w m now hf hs hl h =>
    have hl' : (t.ctl a.inst).faultLatch = (s.ctl a.inst).faultLatch := (congrArg Internal.faultLatch h.own).trans hl
    have hs' : (t.ctl a.inst).status = c.code := (congrArg Internal.status h.own).trans hs
    simp [hl', hs', hf]

/-- Settles O48: only the reset event clears a latch. -/
theorem onlyResetClearsTheFaultLatch : Obligations.OnlyResetClearsTheFaultLatch := by
  intro s t i h hl
  obtain ⟨-, ⟨hi, rfl⟩ | ⟨e, rest, hi, hx⟩⟩ := step_cases h
  · simp [hi, hl]
  · rw [handle_faultLatch hx (by simpa using hl), hi]
    simp

/-- Settles O49: a command can only set the mark, and no other event, reset included, touches it. -/
theorem modelFaultIsNeverCleared : Obligations.ModelFaultIsNeverCleared := by
  refine ⟨rfl, fun s t h hm => ?_⟩
  obtain ⟨-, ⟨-, rfl⟩ | ⟨e, rest, -, hx⟩⟩ := step_cases h
  · exact hm
  · exact handle_keeps_modelFault hx hm

/-- Settles O5: the step hands the event to `runWord`, which decodes the word. -/
theorem stepRunsTheDecodedCommand : Obligations.StepRunsTheDecodedCommand := by
  intro s w rest hc hi
  rw [step_of_event hc hi]
  exact ⟨fun i hd _ => by rw [handle, runWord, hd], fun e hd => by rw [handle, runWord, hd]⟩

/-- Settles O6: an admitted configuration with an empty inbox waits. -/
theorem stepWithNothingPresentedKeepsState : Obligations.StepWithNothingPresentedKeepsState :=
  fun _ hc hi => step_of_empty hc hi

/-- Settles O51: the step observes the slot, which stops the step only while it is `none`. -/
theorem readingUnwrittenPendingRxFaults : Obligations.ReadingUnwrittenPendingRxFaults := by
  intro s i rest hc hi
  rw [step_of_event hc hi]
  exact ⟨fun hp => by simp [handle, observe, readPendingRx, hp],
    fun m hp => by simp [handle, observe, readPendingRx, hp]⟩

end Sys2Proof.StateProofs
end

section
/-! PROOFS. The obligations about the register space (20_memory.md): the default map, the peripheral's own bits, and the
two software contexts. -/

/-! ## The address map (R58) -/

namespace Sys2Proof.Machine

open Sys2Proof.Safety

theorem mem_allRegs (r : Reg) : r ∈ allRegs := by
  rcases r with ⟨i, r⟩ | r
  · cases i <;> cases r <;> simp [allRegs, canRegs]
  · cases r <;> simp [allRegs]

theorem regAddr_default_nodup : (allRegs.map (regAddr {})).Nodup := by decide

/-- The default map gives no two registers one address. -/
theorem regAddr_default_injective {r q : Reg} (h : regAddr {} r = regAddr {} q) : r = q :=
  List.inj_on_of_nodup_map regAddr_default_nodup (mem_allRegs r) (mem_allRegs q) h

/-- Where a map gives no two registers one address, the register at a register's address is that register. -/
theorem regAt_regAddr {m : AddressMap} (hm : ∀ r q, regAddr m r = regAddr m q → r = q) (r : Reg) :
    regAt m (regAddr m r) = some r := by
  cases hq : regAt m (regAddr m r) with
  | none => simpa using List.find?_eq_none.mp hq r (mem_allRegs r)
  | some q => rw [hm q r (by simpa using List.find?_some hq)]

/-! ## The peripheral's own bits (R38, R55) -/

@[simp] theorem showPeripheral_ctl (i : Inst) (p : PeripheralInputs) (s : State) :
    (showPeripheral i p s).ctl i =
      { s.ctl i with
        mb0Empty := p.mb0Empty
        ti0r := (s.ctl i).ti0r.extractLsb' 1 31 ++ BitVec.ofBool p.txrq
        rf0r := rf0rShown (s.ctl i).rf0r p
        ri0r := p.ri0r
        rdt0r := p.rdt0r
        rdl0r := p.rdl0r
        rdh0r := p.rdh0r } := State.ctl_mapCtl_same ..

/-- The peripheral's TXRQ bit in place of bit 0, bit by bit. -/
theorem getLsbD_append_txrq (x : Word) (b : Bool) (n : Nat) :
    (x.extractLsb' 1 31 ++ BitVec.ofBool b : Word).getLsbD n = if n = 0 then b else x.getLsbD n := by
  rw [BitVec.getLsbD_append]
  cases n with
  | zero => simp
  | succ n =>
    by_cases hn : n < 31
    · simp [hn, Nat.add_comm 1 n]
    · simp [hn, BitVec.getLsbD_of_ge x (n + 1) (by omega)]

/-- RF0R as the peripheral shows it, field by field (R36): its own five fields as shown, bits 2 and 31:6 as before. -/
theorem rf0rShown_bits (old : Word) (p : PeripheralInputs) :
    (rf0rShown old p).extractLsb' 0 2 = p.fmp0 ∧ (rf0rShown old p).getLsbD 3 = p.full0 ∧
      (rf0rShown old p).getLsbD 4 = p.fovr0 ∧ (rf0rShown old p).getLsbD 5 = p.rfom0 ∧
      (rf0rShown old p).getLsbD 2 = old.getLsbD 2 ∧
      (rf0rShown old p).extractLsb' 6 26 = old.extractLsb' 6 26 := by
  rw [rf0rShown_fields]
  refine ⟨BitVec.extractLsb'_append_eq_right, ?_, ?_, ?_, ?_, ?_⟩
  · simp only [BitVec.getLsbD_append]; simp
  · simp only [BitVec.getLsbD_append]; simp
  · simp only [BitVec.getLsbD_append]; simp
  · simp only [BitVec.getLsbD_append]; simp
  · apply BitVec.eq_of_getLsbD_eq
    intro n hn
    simp only [BitVec.getLsbD_append, BitVec.getLsbD_extractLsb']
    interval_cases n <;> simp

/-- The peripheral reaches six registers of its own instance (R55). -/
theorem showPeripheral_imagesKept (i : Inst) (p : PeripheralInputs) (s : State) :
    ImagesKeptBut [.can i .ti0r, .can i .rf0r, .can i .ri0r, .can i .rdt0r, .can i .rdl0r, .can i .rdh0r] s
      (showPeripheral i p s) := by
  rintro (⟨j, r⟩ | r) hr
  · obtain rfl | rfl := Inst.eq_or_other i j
    · cases r <;> simp [State.image, Controller.image] at hr ⊢
    · simp [State.image]
  · simp [State.image]

theorem showPeripheral_outsideKept (i : Inst) (p : PeripheralInputs) (s : State) :
    OutsideKept s (showPeripheral i p s) := by
  constructor <;> simp [showPeripheral]

end Sys2Proof.Machine

/-! ## The register sequences as one update of the state -/

namespace Sys2Proof.Machine

open Sys2Proof.Safety

/-- A state that an update `f` of one instance leads to, when the outside is kept, is known but for the filter unit and the
record. -/
theorem State.eq_of_ctl {s t : State} {i : Inst} {f : Controller → Controller} (own : t.ctl i = f (s.ctl i))
    (other : t.ctl i.other = s.ctl i.other) (outside : OutsideKept s t) :
    t = { s.mapCtl i f with filter := t.filter, bus := t.bus } := by
  obtain ⟨hcfg, hports, hinbox, hmf⟩ := outside
  cases i <;> cases t <;> simp_all [State.ctl, State.mapCtl, Inst.other]

/-- Steps 1 to 8 of an install write the filter unit and the record (R130). -/
theorem programBank_eq (k : Fin 28) (w : Word) (s : State) :
    ∃ filter bus, programBank k w s = { s with filter := filter, bus := bus } :=
  ⟨_, _, State.eq_of_ctl (i := .can1) (f := id) (programBank_ctl ..) (programBank_ctl ..)
    (programBank_effect .can1 k w s).outside⟩

/-- One instance with the four mailbox words in place (R141). -/
def Controller.withMailbox (w : MailboxWords) (c : Controller) : Controller :=
  { c with ti0r := w.ti, tdt0r := w.tdt, tdl0r := w.tdl, tdh0r := w.tdh }

/-- Writes 1 to 5 of a load write the four mailbox words and the record (R146). -/
theorem loadMailbox_eq (i : Inst) (w : MailboxWords) (s : State) :
    ∃ bus, loadMailbox i w s = { s.mapCtl i (Controller.withMailbox w) with filter := s.filter, bus := bus } := by
  have h := State.eq_of_ctl (f := Controller.withMailbox w) (loadMailbox_ctl i w s) (loadMailbox_ctl_other i w s)
    (loadMailbox_effect i w s).outside
  rw [loadMailbox_filter] at h
  exact ⟨_, h⟩

end Sys2Proof.Machine

/-! ## The two software contexts (R62, R180)

A receive-handler command and an application command write disjoint parts of the state, the status and the latch apart, and
neither reads what the other writes. So each is an edit of its own part whose values the other command does not move, and
two such edits commute. -/

namespace Sys2Proof.Safety

open Sys2Proof.Machine

/-- What a receive-handler command leaves in the fields it writes. -/
structure ReceiveEdit where
  status : BitVec 8
  faulted : Bool
  rxHeld : Bool
  pendingRx : Option Message
  rf0r : Word

/-- What an application command leaves in the fields it writes. A model fault writes no status (R176). -/
structure ApplicationEdit where
  status : Option (BitVec 8)
  faulted : Bool
  filterCount : Nat
  txLoaded : Bool
  btr : Word
  ti0r : Word
  tdt0r : Word
  tdl0r : Word
  tdh0r : Word
  filter : FilterUnit
  modelFault : Option ModelFault

/-- The edit of one instance; the latch is only ever set (R173). -/
def ReceiveEdit.onCtl (e : ReceiveEdit) (c : Controller) : Controller :=
  { c with
    status := e.status
    faultLatch := e.faulted || c.faultLatch
    rxHeld := e.rxHeld
    pendingRx := e.pendingRx
    rf0r := e.rf0r }

/-- The edit of one instance; the latch is only ever set (R173). -/
def ApplicationEdit.onCtl (e : ApplicationEdit) (c : Controller) : Controller :=
  { c with
    status := e.status.getD c.status
    faultLatch := e.faulted || c.faultLatch
    filterCount := e.filterCount
    txLoaded := e.txLoaded
    btr := e.btr
    ti0r := e.ti0r
    tdt0r := e.tdt0r
    tdl0r := e.tdl0r
    tdh0r := e.tdh0r }

/-- The edit of the whole state, with the record of accesses as given. -/
def ReceiveEdit.apply (e : ReceiveEdit) (i : Inst) (bus : List Access) (s : State) : State :=
  { s.mapCtl i e.onCtl with bus := bus }

/-- The edit of the whole state, with the record of accesses as given. -/
def ApplicationEdit.apply (e : ApplicationEdit) (i : Inst) (bus : List Access) (s : State) : State :=
  { s.mapCtl i e.onCtl with filter := e.filter, modelFault := e.modelFault, bus := bus }

/-- The edit that sets a status and leaves the rest of the receive-handler part. -/
def receiveKept (i : Inst) (s : State) (status : StatusCode) : ReceiveEdit where
  status := status.code
  faulted := status.isFault
  rxHeld := (s.ctl i).rxHeld
  pendingRx := (s.ctl i).pendingRx
  rf0r := (s.ctl i).rf0r

/-- The edit that sets a status, if one is given, and leaves the rest of the application part. -/
def applicationKept (i : Inst) (s : State) (status : Option StatusCode) : ApplicationEdit where
  status := status.map StatusCode.code
  faulted := (status.map StatusCode.isFault).getD false
  filterCount := (s.ctl i).filterCount
  txLoaded := (s.ctl i).txLoaded
  btr := (s.ctl i).btr
  ti0r := (s.ctl i).ti0r
  tdt0r := (s.ctl i).tdt0r
  tdl0r := (s.ctl i).tdl0r
  tdh0r := (s.ctl i).tdh0r
  filter := s.filter
  modelFault := s.modelFault

/-! ### Each command is an edit of its own part -/

/-- What `RX_DECODE` writes (R155, R156). -/
def rxDecodeEdit (i : Inst) (s : State) : ReceiveEdit :=
  if (s.image (.can i .rf0r)).extractLsb' 0 2 = 0#2 then receiveKept i s .rxEmpty
  else
    match fifoEntry i s with
    | .error code => receiveKept i s code
    | .ok m => { receiveKept i s .ok with rxHeld := true, pendingRx := some m }

/-- What `RX_RELEASE` writes (R159). -/
def rxReleaseEdit (i : Inst) (s : State) : ReceiveEdit :=
  { receiveKept i s .ok with rxHeld := false, rf0r := rf0rAfterWrite (s.ctl i).rf0r 0x00000020#32 }

/-- What `BT_PROGRAM` writes (R104). -/
def btProgramEdit (i : Inst) (s : State) : ApplicationEdit :=
  match btCalc s.cfg.strictBitTiming (argClock s) (argRate s) with
  | .error code => applicationKept i s (some code)
  | .ok (p, inexact) =>
    { applicationKept i s (some (bitTimingStatus inexact)) with
      btr := btrWord p (sjwField s.cfg.sjwFieldMode) ((s.ctl i).btr.extractLsb' 30 2) }

/-- What `SET_TEST_MODE` writes (R109). -/
def setTestModeEdit (i : Inst) (s : State) : ApplicationEdit :=
  { applicationKept i s (some .ok) with
    btr := ((s.ctl i).btr &&& 0x3FFFFFFF#32) ||| ((testModeBits (argMode s)).setWidth 32 <<< 30) }

/-- What `FLT_INSTALL` writes (R124). -/
def fltInstallEdit (i : Inst) (s : State) : ApplicationEdit :=
  if (s.ctl i).filterCount ≥ Config.filtersPerInstance then applicationKept i s (some .noopSaturated)
  else if filterIdInvalid (argId s) (argFmt s) then applicationKept i s (some .fltInvalidId)
  else
    { applicationKept i s (some .ok) with
      filterCount := (s.ctl i).filterCount + 1
      filter := (programBank (bankIndex i s) (filterWord (argId s) (argFmt s)) s).filter }

/-- What `TX_LOAD` writes (R146). -/
def txLoadEdit (i : Inst) (s : State) : ApplicationEdit :=
  match validateMsg (argMsg s) with
  | .error code => applicationKept i s (some code)
  | .ok () =>
    if mailboxFree i s = false then { applicationKept i s none with modelFault := some .txBusy }
    else
      { applicationKept i s (some .ok) with
        txLoaded := true
        ti0r := (encodeMsg (argMsg s)).ti
        tdt0r := (encodeMsg (argMsg s)).tdt
        tdl0r := (encodeMsg (argMsg s)).tdl
        tdh0r := (encodeMsg (argMsg s)).tdh }

/-- What `TX_REQUEST` writes (R150). -/
def txRequestEdit (i : Inst) (s : State) : ApplicationEdit :=
  if mailboxLoaded i s = false then { applicationKept i s none with modelFault := some .txNotLoaded }
  else { applicationKept i s (some .ok) with txLoaded := false, ti0r := insertField (s.ctl i).ti0r 0 0 1#32 }

theorem raiseFault_eq_receiveKept {code : StatusCode} (h : code.isFault = true) (i : Inst) (s : State) :
    raiseFault i code s = (receiveKept i s code).apply i s.bus s := by
  cases i <;> simp [raiseFault, ReceiveEdit.apply, ReceiveEdit.onCtl, receiveKept, State.mapCtl, State.ctl, h]

theorem raiseFault_eq_applicationKept {code : StatusCode} (h : code.isFault = true) (i : Inst) (s : State) :
    raiseFault i code s = (applicationKept i s (some code)).apply i s.bus s := by
  cases i <;>
    simp [raiseFault, ApplicationEdit.apply, ApplicationEdit.onCtl, applicationKept, State.mapCtl, State.ctl, h]

theorem execRxDecode_eq_edit (i : Inst) (s : State) :
    ∃ bus, execRxDecode i s = .next ((rxDecodeEdit i s).apply i bus s) := by
  by_cases hp : (s.image (.can i .rf0r)).extractLsb' 0 2 = 0#2
  · rw [execRxDecode_of_empty i s hp, raiseFault_eq_receiveKept rfl, rxDecodeEdit, if_pos hp]
    cases i <;> exact ⟨_, rfl⟩
  · rw [execRxDecode_of_pending i s hp, rxDecodeEdit, if_neg hp]
    cases hd : fifoEntry i s with
    | error code =>
      cases decodeEntry_error hd
      simp only [raiseFault_eq_receiveKept (code := .rxDlcRange) rfl]
      cases i <;> exact ⟨_, rfl⟩
    | ok m => cases i <;> exact ⟨_, rfl⟩

theorem execRxRelease_eq_edit (i : Inst) (s : State) :
    ∃ bus, execRxRelease i s = .next ((rxReleaseEdit i s).apply i bus s) := by
  cases i <;> exact ⟨_, rfl⟩

theorem execBtProgram_eq_edit (i : Inst) (s : State) :
    ∃ bus, execBtProgram i s = .next ((btProgramEdit i s).apply i bus s) := by
  unfold execBtProgram btProgramEdit
  cases hc : btCalc s.cfg.strictBitTiming (argClock s) (argRate s) with
  | error code => exact ⟨_, congrArg _ (raiseFault_eq_applicationKept (btCalc_error hc) i s)⟩
  | ok r =>
    obtain ⟨p, inexact⟩ := r
    cases i <;> cases inexact <;> exact ⟨_, rfl⟩

theorem execSetTestMode_eq_edit (i : Inst) (s : State) :
    ∃ bus, execSetTestMode i s = .next ((setTestModeEdit i s).apply i bus s) := by
  cases i <;> exact ⟨_, rfl⟩

theorem execFltInstall_eq_edit (i : Inst) (s : State) :
    ∃ bus, execFltInstall i s = .next ((fltInstallEdit i s).apply i bus s) := by
  unfold execFltInstall fltInstallEdit
  split
  · cases i <;> exact ⟨_, rfl⟩
  split
  · exact ⟨_, congrArg _ (raiseFault_eq_applicationKept rfl i s)⟩
  · obtain ⟨filter, bus, h⟩ := programBank_eq (bankIndex i s) (filterWord (argId s) (argFmt s)) s
    rw [h]
    cases i <;> exact ⟨_, rfl⟩

theorem execTxLoad_eq_edit (i : Inst) (s : State) :
    ∃ bus, execTxLoad i s = .next ((txLoadEdit i s).apply i bus s) := by
  unfold execTxLoad txLoadEdit
  cases hv : validateMsg (argMsg s) with
  | error code => exact ⟨_, congrArg _ (raiseFault_eq_applicationKept (validateMsg_error hv) i s)⟩
  | ok _ =>
    simp only
    split
    · cases i <;> exact ⟨_, rfl⟩
    · obtain ⟨bus, h⟩ := loadMailbox_eq i (encodeMsg (argMsg s)) s
      rw [h]
      cases i <;> exact ⟨_, rfl⟩

theorem execTxRequest_eq_edit (i : Inst) (s : State) :
    ∃ bus, execTxRequest i s = .next ((txRequestEdit i s).apply i bus s) := by
  unfold execTxRequest txRequestEdit
  split
  · cases i <;> exact ⟨_, rfl⟩
  · cases i <;> exact ⟨_, rfl⟩

/-! ### The values of an edit do not depend on the other context -/

/-- A receive-handler command is an edit, whose values no application edit moves. -/
theorem exec_receive_edit {b : Instr} (hb : b.isReceive = true) :
    ∃ f : State → ReceiveEdit, (∀ s, ∃ bus, exec b s = .next ((f s).apply b.inst bus s)) ∧
      ∀ (s : State) (e : ApplicationEdit) i bus, f (e.apply i bus s) = f s := by
  cases b with
  | rxDecode j => exact ⟨rxDecodeEdit j, execRxDecode_eq_edit j, fun s e i bus => by cases i <;> cases j <;> rfl⟩
  | rxRelease j => exact ⟨rxReleaseEdit j, execRxRelease_eq_edit j, fun s e i bus => by cases i <;> cases j <;> rfl⟩
  | _ => nomatch hb

/-- An application command is an edit, whose values no receive-handler edit moves. -/
theorem exec_application_edit {a : Instr} (ha : a.isReceive = false) :
    ∃ f : State → ApplicationEdit, (∀ s, ∃ bus, exec a s = .next ((f s).apply a.inst bus s)) ∧
      ∀ (s : State) (e : ReceiveEdit) j bus, f (e.apply j bus s) = f s := by
  cases a with
  | btProgram i => exact ⟨btProgramEdit i, execBtProgram_eq_edit i, fun s e j bus => by cases i <;> cases j <;> rfl⟩
  | setTestMode i =>
    exact ⟨setTestModeEdit i, execSetTestMode_eq_edit i, fun s e j bus => by cases i <;> cases j <;> rfl⟩
  | fltInstall i => exact ⟨fltInstallEdit i, execFltInstall_eq_edit i, fun s e j bus => by cases i <;> cases j <;> rfl⟩
  | txLoad i => exact ⟨txLoadEdit i, execTxLoad_eq_edit i, fun s e j bus => by cases i <;> cases j <;> rfl⟩
  | txRequest i => exact ⟨txRequestEdit i, execTxRequest_eq_edit i, fun s e j bus => by cases i <;> cases j <;> rfl⟩
  | _ => nomatch ha

/-! ### Two such edits commute -/

/-- On one instance the edits commute but for the status, which the later one writes (R23). -/
theorem onCtl_comm (e : ApplicationEdit) (f : ReceiveEdit) (c : Controller) :
    { f.onCtl (e.onCtl c) with status := 0#8 } = { e.onCtl (f.onCtl c) with status := 0#8 } := by
  simp [ReceiveEdit.onCtl, ApplicationEdit.onCtl, Bool.or_left_comm]

theorem ReceiveEdit.apply_ctl (f : ReceiveEdit) (j k : Inst) (bus : List Access) (s : State) :
    (f.apply j bus s).ctl k = if k = j then f.onCtl (s.ctl k) else s.ctl k := by
  cases j <;> cases k <;> rfl

theorem ApplicationEdit.apply_ctl (e : ApplicationEdit) (i k : Inst) (bus : List Access) (s : State) :
    (e.apply i bus s).ctl k = if k = i then e.onCtl (s.ctl k) else s.ctl k := by
  cases i <;> cases k <;> rfl

/-- The edits commute but for the record and, on one instance, the status. -/
theorem apply_comm (e : ApplicationEdit) (f : ReceiveEdit) (i j : Inst) (s : State) (b₁ b₂ b₃ b₄ : List Access) :
    SameButStatus (f.apply j b₂ (e.apply i b₁ s)) (e.apply i b₄ (f.apply j b₃ s)) ∧
      (i ≠ j → ∀ k, (f.apply j b₂ (e.apply i b₁ s)).ctl k = (e.apply i b₄ (f.apply j b₃ s)).ctl k) := by
  refine ⟨⟨?_, ?_, ?_, ?_, ?_, fun k => ?_⟩, fun hij k => ?_⟩
  iterate 5 · simp [ReceiveEdit.apply, ApplicationEdit.apply]
  · simp only [ReceiveEdit.apply_ctl, ApplicationEdit.apply_ctl]
    by_cases hi : k = i
    · by_cases hj : k = j
      · simp only [if_pos hi, if_pos hj, onCtl_comm]
      · simp only [if_pos hi, if_neg hj]
    · simp only [if_neg hi]
  · simp only [ReceiveEdit.apply_ctl, ApplicationEdit.apply_ctl]
    by_cases hi : k = i
    · have hj : k ≠ j := fun hj => hij (hi.symm.trans hj)
      simp only [if_pos hi, if_neg hj]
    · simp only [if_neg hi]

end Sys2Proof.Safety

/-! ## The obligations -/

namespace Sys2Proof.MemoryProofs

open Sys2Proof.Machine Sys2Proof.Safety

/-- Settles O8: no two registers share an address of the default map, so the search finds the register itself. -/
theorem defaultMapReachesEveryRegister : Obligations.DefaultMapReachesEveryRegister := by
  intro s r hm
  rw [memRead, hm, regAt_regAddr @regAddr_default_injective]

/-- Settles O53: the words of TI0R and RF0R bit by bit, the four read-only words as shown, and the frame. -/
theorem peripheralChangesOnlyItsOwnBits : Obligations.PeripheralChangesOnlyItsOwnBits := by
  intro i p s
  refine ⟨?_, showPeripheral_ctl_other .., showPeripheral_filter .., showPeripheral_outsideKept i p s, ?_,
    showPeripheral_imagesKept i p s, fun n => ?_, ?_⟩
  · simp [internal]
  · simp [showPeripheral]
  · simp only [State.image, Controller.image, showPeripheral_ctl]
    exact getLsbD_append_txrq _ _ n
  · simp only [State.image, Controller.image, showPeripheral_ctl, and_true]
    exact rf0rShown_bits _ p

/-- Settles O54: each command is an edit of its own part with values the other does not move, and the edits commute. -/
theorem receiveAndApplicationCommandsCommute : Obligations.ReceiveAndApplicationCommandsCommute := by
  intro a b s ha hb
  obtain ⟨f, hf, hfkept⟩ := exec_application_edit ha
  obtain ⟨g, hg, hgkept⟩ := exec_receive_edit hb
  obtain ⟨busA, hA⟩ := hf s
  obtain ⟨busAB, hAB⟩ := hg ((f s).apply a.inst busA s)
  obtain ⟨busB, hB⟩ := hg s
  obtain ⟨busBA, hBA⟩ := hf ((g s).apply b.inst busB s)
  rw [hgkept] at hAB
  rw [hfkept] at hBA
  obtain ⟨hsame, hstatus⟩ := apply_comm (f s) (g s) a.inst b.inst s busA busAB busB busBA
  exact ⟨_, _, by rw [execTwo, hA, andThen, hAB], by rw [execTwo, hB, andThen, hBA], hsame,
    fun hne k => congrArg Controller.status (hstatus hne k)⟩

end Sys2Proof.MemoryProofs
end

section
/-! PROOFS. The obligations about command words, register words and argument ports (30_encoding.md). -/

/-! ## Command words (R80 to R84) -/

namespace Sys2Proof

/-- `EncodingShape` for every command. -/
theorem Instr.encodingShape (a : Instr) : Laws.EncodingShape.Statement a := by
  cases a with
  | btProgram i => exact Laws.EncodingShape.btProgram i
  | setTestMode i => exact Laws.EncodingShape.setTestMode i
  | fltInstall i => exact Laws.EncodingShape.fltInstall i
  | txLoad i => exact Laws.EncodingShape.txLoad i
  | txRequest i => exact Laws.EncodingShape.txRequest i
  | rxDecode i => exact Laws.EncodingShape.rxDecode i
  | rxRelease i => exact Laws.EncodingShape.rxRelease i

/-- A word is its three fields: bits 31:5, the instance and the opcode (R80). -/
theorem word_eq_fields (w : Word) : w = w.extractLsb' 5 27 ++ (w.extractLsb' 4 1 ++ w.extractLsb' 0 4) := by
  rw [BitVec.extractLsb'_append_extractLsb'_eq_extractLsb' (start₂ := 4) (start₁ := 0) rfl,
    BitVec.extractLsb'_append_extractLsb'_eq_extractLsb' (start₂ := 5) (start₁ := 0) rfl, BitVec.extractLsb'_eq_self]

theorem instField_eq_iff (w : Word) (i : Inst) : instField w = i ↔ w.extractLsb' 4 1 = i.code := by
  unfold instField
  generalize w.extractLsb' 4 1 = b
  cases i <;> revert b <;> decide

theorem instField_eq_getLsbD (w : Word) : instField w = if w.getLsbD 4 then .can2 else .can1 := by
  rw [instField_eq_iff]
  have hbit : w.extractLsb' 4 1 = BitVec.ofBool (w.getLsbD 4) := by
    apply BitVec.eq_of_getLsbD_eq
    intro n hn
    obtain rfl : n = 0 := by omega
    simp
  rw [hbit]
  cases w.getLsbD 4 <;> rfl

/-- A word is the encoding of a command when its fields are the command's: 0 in bits 31:5, opcode and instance. -/
theorem eq_encode_iff (w : Word) (a : Instr) :
    w = encode a ↔ w.extractLsb' 5 27 = 0#27 ∧ w.extractLsb' 0 4 = a.opcode ∧ instField w = a.inst := by
  obtain ⟨hop, -, -, hinst, hres, -⟩ := a.encodingShape
  rw [instField_eq_iff]
  constructor
  · rintro rfl
    exact ⟨hres, hop, hinst⟩
  · rintro ⟨hres', hop', hinst'⟩
    rw [word_eq_fields w, word_eq_fields (encode a), hop, hinst, hres, hop', hinst', hres']

theorem decode_encode (a : Instr) : decode (encode a) = .ok a := by
  rcases a with i | i | i | i | i | i | i <;> cases i <;> rfl

/-- The decoder accepts a word for its fields only (R83). -/
theorem fields_of_decode_ok {w : Word} {a : Instr} (h : decode w = .ok a) :
    w.extractLsb' 5 27 = 0#27 ∧ w.extractLsb' 0 4 = a.opcode ∧ instField w = a.inst := by
  unfold decode at h
  split_ifs at h with hres <;> cases h <;> exact ⟨not_not.mp hres, ‹_›, rfl⟩

theorem decode_eq_ok_iff (w : Word) (a : Instr) : decode w = .ok a ↔ w = encode a :=
  ⟨fun h => (eq_encode_iff w a).mpr (fields_of_decode_ok h), fun h => h ▸ decode_encode a⟩

/-- A word is illegal (R84): a bit of 31:5 is set, or the opcode is outside 1 to 7. -/
def IllegalWord (w : Word) : Prop :=
  w.toNat ≥ 2 ^ 5 ∨ w.toNat % 16 = 0 ∨ w.toNat % 16 ≥ 8

theorem illegalWord_iff_fields (w : Word) :
    IllegalWord w ↔
      w.extractLsb' 5 27 ≠ 0#27 ∨ (w.extractLsb' 0 4).toNat = 0 ∨ (w.extractLsb' 0 4).toNat ≥ 8 := by
  have hlt := w.isLt
  rw [IllegalWord, ne_eq, ← BitVec.toNat_inj, BitVec.extractLsb'_toNat, BitVec.extractLsb'_toNat,
    Nat.shiftRight_eq_div_pow]
  simp only [BitVec.toNat_ofNat, Nat.shiftRight_zero]
  omega

/-- The decoder rejects illegal words only, for the instance of bit 4 (R84). -/
theorem illegalWord_of_decode_error {w : Word} {e : Illegal} (h : decode w = .error e) :
    IllegalWord w ∧ e.inst = instField w := by
  rw [illegalWord_iff_fields]
  unfold decode at h
  split_ifs at h with hres h1 h2 h3 h4 h5 h6 h7 <;> cases h
  · exact ⟨.inl hres, rfl⟩
  · refine ⟨.inr ?_, rfl⟩
    bv_omega

/-- The decoder accepts legal words only, for the instance of bit 4 (R83). -/
theorem not_illegalWord_of_decode_ok {w : Word} {a : Instr} (h : decode w = .ok a) :
    ¬ IllegalWord w ∧ a.inst = instField w := by
  obtain ⟨hres, hop, hinst⟩ := fields_of_decode_ok h
  obtain ⟨-, hlo, hhi, -⟩ := a.encodingShape
  rw [illegalWord_iff_fields, hop]
  refine ⟨?_, hinst.symm⟩
  rintro (hres' | hzero | hhigh)
  · exact hres' hres
  · omega
  · omega

/-- Every illegal word is rejected (R84). -/
theorem decode_of_illegalWord {w : Word} (h : IllegalWord w) :
    ∃ e, decode w = .error e ∧ e.inst = instField w := by
  cases hd : decode w with
  | ok a => exact absurd h (not_illegalWord_of_decode_ok hd).1
  | error e => exact ⟨e, rfl, (illegalWord_of_decode_error hd).2⟩

/-- Every other word is a command (R83). -/
theorem decode_of_not_illegalWord {w : Word} (h : ¬ IllegalWord w) :
    ∃ a, decode w = .ok a ∧ a.inst = instField w := by
  cases hd : decode w with
  | ok a => exact ⟨a, rfl, (not_illegalWord_of_decode_ok hd).2⟩
  | error e => exact absurd (illegalWord_of_decode_error hd).1 h

end Sys2Proof

namespace Sys2Proof.Machine

open Sys2Proof.Safety

/-! ## Register words (R50, R70, R73) -/

/-- Byte `n` of four bytes laid little-endian in a word (R50). -/
theorem append_byte (b₃ b₂ b₁ b₀ : Byte) (n : Nat) (h : n < 4) :
    (b₃ ++ b₂ ++ b₁ ++ b₀).extractLsb' (8 * n) 8 = #v[b₀, b₁, b₂, b₃][n] := by
  interval_cases n
  · exact BitVec.extractLsb'_append_eq_right
  · exact (BitVec.extractLsb'_append_eq_of_le (by decide)).trans BitVec.extractLsb'_append_eq_right
  · exact (BitVec.extractLsb'_append_eq_of_le (by decide)).trans
      ((BitVec.extractLsb'_append_eq_of_le (by decide)).trans BitVec.extractLsb'_append_eq_right)
  · exact (BitVec.extractLsb'_append_eq_of_le (by decide)).trans
      ((BitVec.extractLsb'_append_eq_of_le (by decide)).trans BitVec.extractLsb'_append_eq_left)

theorem packLow_byte (p : Vector Byte 8) (n : Nat) (h : n < 4) : (packLow p).extractLsb' (8 * n) 8 = p[n] := by
  rw [packLow, append_byte _ _ _ _ n h]
  interval_cases n <;> rfl

theorem packHigh_byte (p : Vector Byte 8) (n : Nat) (h : n < 4) : (packHigh p).extractLsb' (8 * n) 8 = p[n + 4] := by
  rw [packHigh, append_byte _ _ _ _ n h]
  interval_cases n <;> rfl

/-- A word is its four bytes, the least significant last (R50). -/
theorem bytes_append (w : Word) :
    w.extractLsb' 24 8 ++ w.extractLsb' 16 8 ++ w.extractLsb' 8 8 ++ w.extractLsb' 0 8 = w := by
  rw [BitVec.extractLsb'_append_extractLsb'_eq_extractLsb' (start₂ := 24) (start₁ := 16) rfl,
    BitVec.extractLsb'_append_extractLsb'_eq_extractLsb' (start₂ := 16) (start₁ := 8) rfl,
    BitVec.extractLsb'_append_extractLsb'_eq_extractLsb' (start₂ := 8) (start₁ := 0) rfl, BitVec.extractLsb'_eq_self]

theorem unpack_pack (p : Vector Byte 8) : unpack (packLow p) (packHigh p) = p := by
  have hlo := packLow_byte p
  have hhi := packHigh_byte p
  apply Vector.ext
  intro n hn
  interval_cases n
  exacts [hlo 0 (by decide), hlo 1 (by decide), hlo 2 (by decide), hlo 3 (by decide),
    hhi 0 (by decide), hhi 1 (by decide), hhi 2 (by decide), hhi 3 (by decide)]

theorem packLow_unpack (lo hi : Word) : packLow (unpack lo hi) = lo := bytes_append lo

theorem packHigh_unpack (lo hi : Word) : packHigh (unpack lo hi) = hi := bytes_append hi

/-- The fields of a Standard identifier word, read back (R70). -/
theorem encodeIdWord_standard_bits (id : BitVec 29) (type : FrameType) :
    (encodeIdWord id .standard type).extractLsb' 21 11 = id.extractLsb' 0 11 ∧
      (encodeIdWord id .standard type).extractLsb' 2 19 = 0#19 ∧
      (encodeIdWord id .standard type).getLsbD 1 = decide (type = .remote) ∧
      (encodeIdWord id .standard type).getLsbD 0 = false := by
  rw [encodeIdWord_standard_fields]
  refine ⟨?_, ?_, ?_, ?_⟩
  · exact (BitVec.extractLsb'_append_eq_of_le (by decide)).trans
      ((BitVec.extractLsb'_append_eq_of_le (by decide)).trans BitVec.extractLsb'_append_eq_left)
  · exact (BitVec.extractLsb'_append_eq_of_le (by decide)).trans
      ((BitVec.extractLsb'_append_eq_of_le (by decide)).trans BitVec.extractLsb'_append_eq_right)
  · simp only [BitVec.getLsbD_append]; simp
  · simp only [BitVec.getLsbD_append]; simp

/-- The fields of an Extended identifier word, read back (R70). -/
theorem encodeIdWord_extended_bits (id : BitVec 29) (type : FrameType) :
    (encodeIdWord id .extended type).extractLsb' 3 29 = id ∧
      (encodeIdWord id .extended type).getLsbD 2 = true ∧
      (encodeIdWord id .extended type).getLsbD 1 = decide (type = .remote) ∧
      (encodeIdWord id .extended type).getLsbD 0 = false := by
  rw [encodeIdWord_extended_fields]
  refine ⟨?_, ?_, ?_, ?_⟩
  · exact (BitVec.extractLsb'_append_eq_of_le (by decide)).trans
      ((BitVec.extractLsb'_append_eq_of_le (by decide)).trans BitVec.extractLsb'_append_eq_left)
  · simp only [BitVec.getLsbD_append]; simp
  · simp only [BitVec.getLsbD_append]; simp
  · simp only [BitVec.getLsbD_append]; simp

/-! ## Assembler lines (R87) -/

theorem padPayload_getElem (bytes : List Byte) (n : Nat) (h : n < 8) : (padPayload bytes)[n] = bytes.getD n 0#8 := by
  unfold padPayload
  interval_cases n <;> rfl

/-- Padding with `0x00` up to 8 bytes gives the payload that is the list and zeros (R87). -/
theorem padPayload_eq {bytes : List Byte} {payload : Vector Byte 8}
    (h : payload.toList = bytes ++ List.replicate (8 - bytes.length) 0x00#8) : padPayload bytes = payload := by
  apply Vector.ext
  intro n hn
  have hpay : payload[n] = payload.toList.getD n 0#8 := by simp [List.getD, hn]
  rw [padPayload_getElem, hpay, h]
  by_cases hb : n < bytes.length
  · rw [List.getD_append _ _ _ _ hb]
  · rw [List.getD_append_right _ _ _ _ (by omega), List.getD_replicate _ (by omega),
      List.getD_eq_default _ _ (by omega)]

/-- A step that takes a command's word runs the command. -/
theorem step_of_encode {a : Instr} {s : State} {rest : List Event} (hc : configurationOk s.cfg = true)
    (hi : s.inbox = .command (encode a) :: rest) : step s = exec a { s with inbox := rest } := by
  rw [step_of_event hc hi, handle, runWord, decode_encode]

/-- A line's two events take two steps: its operands go on the ports, then its command runs (R87). -/
theorem step_assemble {l : AsmLine} {s : State} {rest : List Event} (hc : configurationOk s.cfg = true)
    (hi : s.inbox = assemble l s.ports ++ rest) :
    ∃ s', step s = .next s' ∧ step s' = exec (asmInstr l) { s with ports := asmPorts l s.ports, inbox := rest } :=
  ⟨_, step_of_event hc hi, step_of_encode hc rfl⟩

/-! ## The ports a command does not name (R81, R82)

No operation of a command reads or writes the ports, so each commutes with a change of them. -/

/-- The state with other values on the ports. -/
def State.withPorts (s : State) (p : Ports) : State :=
  { s with ports := p }

section
variable (s : State) (p : Ports) (i : Inst)

@[simp] theorem State.withPorts_cfg : (s.withPorts p).cfg = s.cfg := rfl
@[simp] theorem State.withPorts_ports : (s.withPorts p).ports = p := rfl
@[simp] theorem State.withPorts_ctl : (s.withPorts p).ctl i = s.ctl i := State.ctl_withPorts ..

@[simp] theorem State.withPorts_image (r : Reg) : (s.withPorts p).image r = s.image r := by
  rcases r with ⟨_ | _, _⟩ | _ <;> rfl

@[simp] theorem State.withPorts_mapCtl (f : Controller → Controller) :
    (s.withPorts p).mapCtl i f = (s.mapCtl i f).withPorts p := by cases i <;> rfl

@[simp] theorem State.withPorts_record (a : Access) : (s.withPorts p).record a = (s.record a).withPorts p := rfl

@[simp] theorem readOf_withPorts (r : Reg) : readOf (s.withPorts p) r = readOf s r := by simp [readOf, addrOf]

@[simp] theorem regWrite_withPorts (r : Reg) (v : Word) :
    regWrite r v (s.withPorts p) = (regWrite r v s).withPorts p := by
  rcases r with ⟨_ | _, _⟩ | _ <;> rfl

@[simp] theorem fieldWrite_withPorts (r : Reg) (hi lo : Nat) (v : Word) :
    fieldWrite r hi lo v (s.withPorts p) = (fieldWrite r hi lo v s).withPorts p := by simp [fieldWrite_eq]

@[simp] theorem writeStatus_withPorts (c : StatusCode) :
    writeStatus i c (s.withPorts p) = (writeStatus i c s).withPorts p := State.withPorts_mapCtl ..

@[simp] theorem raiseFault_withPorts (c : StatusCode) :
    raiseFault i c (s.withPorts p) = (raiseFault i c s).withPorts p := State.withPorts_mapCtl ..

@[simp] theorem setTxLoaded_withPorts (b : Bool) :
    setTxLoaded i b (s.withPorts p) = (setTxLoaded i b s).withPorts p := State.withPorts_mapCtl ..

@[simp] theorem setRxHeld_withPorts (b : Bool) :
    setRxHeld i b (s.withPorts p) = (setRxHeld i b s).withPorts p := State.withPorts_mapCtl ..

@[simp] theorem setPendingRx_withPorts (m : Message) :
    setPendingRx i m (s.withPorts p) = (setPendingRx i m s).withPorts p := State.withPorts_mapCtl ..

@[simp] theorem advanceFilterCount_withPorts :
    advanceFilterCount i (s.withPorts p) = (advanceFilterCount i s).withPorts p := State.withPorts_mapCtl ..

@[simp] theorem programBank_withPorts (k : Fin 28) (w : Word) :
    programBank k w (s.withPorts p) = (programBank k w s).withPorts p := by simp [programBank]

@[simp] theorem loadMailbox_withPorts (w : MailboxWords) :
    loadMailbox i w (s.withPorts p) = (loadMailbox i w s).withPorts p := by simp [loadMailbox]

@[simp] theorem bankIndex_withPorts : bankIndex i (s.withPorts p) = bankIndex i s := by simp [bankIndex]

@[simp] theorem mailboxFree_withPorts : mailboxFree i (s.withPorts p) = mailboxFree i s := by simp [mailboxFree]

@[simp] theorem mailboxLoaded_withPorts : mailboxLoaded i (s.withPorts p) = mailboxLoaded i s := by
  simp [mailboxLoaded]

@[simp] theorem fifoEntry_withPorts : fifoEntry i (s.withPorts p) = fifoEntry i s := by simp [fifoEntry]

@[simp] theorem afterFifoReads_withPorts :
    afterFifoReads i (s.withPorts p) = (afterFifoReads i s).withPorts p := by cases i <;> rfl

end

/-- With other values on the ports it does not name, a command comes to what it came to, those values still on the ports
(R81). -/
theorem exec_withPorts {a : Instr} {s : State} {p : Ports} (hp : NamedPortsAgree a s.ports p) :
    exec a (s.withPorts p) = andThen (exec a s) fun t => .next (t.withPorts p) := by
  cases a with
  | btProgram i =>
    obtain ⟨hclock, hrate⟩ := hp
    simp only [exec, execBtProgram, argClock, argRate, hclock, hrate, State.withPorts_ports, State.withPorts_cfg]
    split <;> simp [andThen]
  | setTestMode i =>
    have hmode : s.ports.argMode = p.argMode := hp
    simp [exec, execSetTestMode, argMode, hmode, andThen]
  | fltInstall i =>
    obtain ⟨hid, hfmt⟩ := hp
    simp only [exec, execFltInstall, argId, argFmt, hid, hfmt, State.withPorts_ports, State.withPorts_ctl]
    split_ifs with hcount hinvalid
    · simp [andThen]
    · simp [andThen, hinvalid]
    · simp [andThen, hinvalid]
  | txLoad i =>
    have hmsg : s.ports.argMsg = p.argMsg := hp
    simp only [exec, execTxLoad, argMsg, hmsg, State.withPorts_ports, mailboxFree_withPorts]
    cases validateMsg p.argMsg with
    | error code => simp [andThen]
    | ok _ =>
      simp only
      split_ifs
      · rfl
      · simp [andThen]
  | txRequest i =>
    simp only [exec, execTxRequest, mailboxLoaded_withPorts]
    split_ifs
    · rfl
    · simp [andThen]
  | rxDecode i =>
    simp only [exec]
    by_cases hf : (s.image (.can i .rf0r)).extractLsb' 0 2 = 0#2
    · rw [execRxDecode_of_empty i s hf, execRxDecode_of_empty i _ (by simpa using hf)]
      simp [andThen]
    · rw [execRxDecode_of_pending i s hf, execRxDecode_of_pending i _ (by simpa using hf), fifoEntry_withPorts]
      cases fifoEntry i s <;> simp [andThen]
  | rxRelease i => simp [exec, execRxRelease, andThen]

end Sys2Proof.Machine

/-! ## The obligations -/

namespace Sys2Proof.EncodingProofs

open Sys2Proof.Machine Sys2Proof.Safety

/-- Settles O2: the decoder accepts a word exactly for the three fields that the encoder gives it. -/
theorem decodeInvertsEncodeOnAllWords : Obligations.DecodeInvertsEncodeOnAllWords :=
  decode_eq_ok_iff

/-- Settles O3: the decoder's rejections are the illegal words, and both answers carry the instance of bit 4. -/
theorem everyWordIsACommandOrIllegal : Obligations.EveryWordIsACommandOrIllegal := by
  intro w
  rw [← instField_eq_getLsbD]
  exact ⟨decode_of_illegalWord, decode_of_not_illegalWord⟩

/-- Settles O4: an illegal word is rejected, and what follows is the fault of R173 with no access. -/
theorem illegalWordOnlySetsStatusAndLatch : Obligations.IllegalWordOnlySetsStatusAndLatch := by
  intro s w hw
  obtain ⟨e, hd, he⟩ := decode_of_illegalWord hw
  rw [← instField_eq_getLsbD, ← he]
  exact ⟨illegalCommand e.inst s, by rw [runWord, hd], raiseFault_faulted e.inst .illegalCommand s⟩

/-- Settles O25: the bytes read back one by one, and both round trips. -/
theorem payloadBytesAreLittleEndian : Obligations.PayloadBytesAreLittleEndian :=
  ⟨fun p n h => ⟨packLow_byte p n h, packHigh_byte p n h⟩, unpack_pack,
    fun lo hi => ⟨packLow_unpack lo hi, packHigh_unpack lo hi⟩⟩

/-- Settles O42: every form of R87 is a line, whose two steps `step_assemble` gives; a padded list is the payload. -/
theorem assembledLinesRunTheirCommand : Obligations.AssembledLinesRunTheirCommand := by
  intro i s rest hc
  refine ⟨fun _ _ => step_assemble hc, step_assemble hc, step_assemble hc, step_assemble hc, step_assemble hc,
    fun _ => step_assemble hc, fun _ => step_assemble hc, ?_, step_assemble hc, step_assemble hc, step_assemble hc⟩
  intro fmt id type len bytes payload _ hpad
  rw [← padPayload_eq hpad]
  exact step_assemble hc

/-- Settles O43: a command answers a next state, and the ports it does not name take no part in it. -/
theorem commandsIgnoreUnnamedPorts : Obligations.CommandsIgnoreUnnamedPorts := by
  intro a s p hp
  obtain ⟨t, h, -⟩ := exec_ends a s
  have hports := exec_withPorts hp
  rw [h] at hports
  exact ⟨t, h, hports⟩

/-- Settles O1: each word written out is evaluated. -/
theorem tableWordsDecodeAsListed : Obligations.TableWordsDecodeAsListed :=
  ⟨rfl, rfl, rfl, rfl, rfl, rfl, rfl, rfl, rfl, rfl, rfl, rfl, rfl, rfl, rfl, rfl, rfl, rfl, rfl⟩

/-- Settles O23: the fields of the words of both formats. -/
theorem identifierWordLayout : Obligations.IdentifierWordLayout := by
  intro id type
  obtain ⟨hid, hzero, hrtr, htxrq⟩ := encodeIdWord_standard_bits id type
  obtain ⟨hid', hide, hrtr', htxrq'⟩ := encodeIdWord_extended_bits id type
  exact ⟨⟨hid, hzero, by rw [hrtr, decide_eq_true_iff], htxrq⟩, hid', hide, by rw [hrtr', decide_eq_true_iff], htxrq'⟩

end Sys2Proof.EncodingProofs
end

section
/-! PROOFS. The obligations about bit timing (40_bit_timing.md): the calculator, the words the two BTR commands write,
and the two commands. -/

namespace Sys2Proof.Machine

open Sys2Proof.Safety

/-! ## The calculator (R101 to R103) -/

/-- The quotient of R102 is 0 exactly below `q`, and above 1024 exactly from `1025 · q` on. -/
theorem div_bounds {q clock : Nat} (hq : 0 < q) :
    (clock / q = 0 ↔ clock < q) ∧ (1024 < clock / q ↔ 1025 * q ≤ clock) :=
  ⟨Nat.div_eq_zero_iff_lt hq, Nat.le_div_iff_mul_le hq⟩

/-- The calculator with its tests as bounds on the clock (R102). -/
theorem btCalc_eq (strict : Bool) (clock rate : Nat) :
    btCalc strict clock rate =
      if rate = 0 then .error .btRateZero
      else if clock < 7 * rate then .error .btPrescalerZero
      else if 7 * 1025 * rate ≤ clock then .error .btPrescalerRange
      else if ¬ 7 * rate ∣ clock ∧ strict = true then .error .btInexact
      else .ok (clock / (7 * rate), decide (¬ 7 * rate ∣ clock)) := by
  by_cases hr : rate = 0
  · simp [btCalc, hr]
  · obtain ⟨hzero, hrange⟩ := div_bounds (clock := clock) (show 0 < 7 * rate by omega)
    rw [show 1025 * (7 * rate) = 7 * 1025 * rate by omega] at hrange
    have hq : Config.tqPerBit = 7 := rfl
    have hmax : Config.prescalerMax = 1024 := rfl
    simp [btCalc, hq, hmax, hr, hzero, hrange, Nat.dvd_iff_mod_eq_zero]

theorem btCalc_eq_ok_iff (strict : Bool) (clock rate p : Nat) (inexact : Bool) :
    btCalc strict clock rate = .ok (p, inexact) ↔
      rate ≠ 0 ∧ (7 * rate ≤ clock ∧ clock < 1025 * (7 * rate) ∧ clock / (7 * rate) = p) ∧
        (inexact = true ↔ ¬ 7 * rate ∣ clock) ∧ (inexact = true → strict = false) := by
  rw [btCalc_eq]
  split_ifs with hr hlt hge hin
  · simp [hr]
  · simp [Nat.not_le_of_lt hlt]
  · simp only [false_iff]; omega
  · simp [hin]
  · have hlo : 7 * rate ≤ clock := by omega
    have hhi : clock < 1025 * (7 * rate) := by omega
    have hflag : decide (¬ 7 * rate ∣ clock) = inexact ↔
        (inexact = true ↔ ¬ 7 * rate ∣ clock) ∧ (inexact = true → strict = false) := by
      by_cases hd : 7 * rate ∣ clock
      · cases inexact <;> simp [hd]
      · have hs : strict = false := by simpa [hd] using hin
        cases inexact <;> simp [hd, hs]
    simp only [Except.ok.injEq, Prod.mk.injEq, hflag, ne_eq, hr, hlo, hhi, not_false_eq_true, true_and]

/-- The region of the clock for each error (R102). -/
theorem btCalc_eq_error_iff (strict : Bool) (clock rate : Nat) :
    (btCalc strict clock rate = .error .btRateZero ↔ rate = 0) ∧
    (btCalc strict clock rate = .error .btPrescalerZero ↔ rate ≠ 0 ∧ clock < 7 * rate) ∧
    (btCalc strict clock rate = .error .btPrescalerRange ↔ rate ≠ 0 ∧ 7 * 1025 * rate ≤ clock) ∧
    (btCalc strict clock rate = .error .btInexact ↔
      strict = true ∧ rate ≠ 0 ∧ 7 * rate ≤ clock ∧ clock < 7 * 1025 * rate ∧ ¬ 7 * rate ∣ clock) := by
  rw [btCalc_eq]
  split_ifs with hr hlt hge hin
  · simp [hr]
  · have hrange : clock < 7 * 1025 * rate := by omega
    simp [hr, hlt, hrange]
  · simp [hr, hlt, hge]
  · simp [hr, hlt, hge, hin, Nat.le_of_not_lt hlt, Nat.lt_of_not_le hge]
  · have hd : strict = true → 7 * rate ∣ clock := fun hs => by_contra fun hd => hin ⟨hd, hs⟩
    simpa [hr, hlt, hge] using fun hs _ _ => hd hs

/-- A prescaler in 1 to 1024, by its bounds. -/
theorem div_eq_iff_bounds {q clock p : Nat} (hq : 0 < q) :
    (q ≤ clock ∧ clock < 1025 * q ∧ clock / q = p) ↔
      1 ≤ p ∧ p ≤ 1024 ∧ q * p ≤ clock ∧ clock < q * (p + 1) := by
  have hbounds : clock / q = p ↔ q * p ≤ clock ∧ clock < q * (p + 1) := by
    rw [mul_comm q p, mul_comm q (p + 1), ← Nat.le_div_iff_mul_le hq, ← Nat.div_lt_iff_lt_mul hq]
    omega
  obtain ⟨hzero, hrange⟩ := div_bounds (clock := clock) hq
  omega

/-! ## The words (R75, R108) -/

@[simp] theorem extract_testBits_append (tb : BitVec 2) (low : BitVec 30) :
    (tb ++ low : Word).extractLsb' 30 2 = tb := BitVec.extractLsb'_append_eq_left

@[simp] theorem extract_low_append (tb : BitVec 2) (low : BitVec 30) :
    (tb ++ low : Word).extractLsb' 0 30 = low := BitVec.extractLsb'_append_eq_right

/-- The fields of BTR below the test bits, as `BT_PROGRAM` writes them (R75). -/
def timingFields (p : Nat) (sjw : BitVec 2) : BitVec 30 :=
  0#4 ++ sjw ++ 0#1 ++ 1#3 ++ 3#4 ++ 0#6 ++ BitVec.ofNat 10 (p - 1)

theorem btrWord_eq_append (p : Nat) (sjw tb : BitVec 2) : btrWord p sjw tb = tb ++ timingFields p sjw := by
  rw [btrWord_fields, timingFields]
  simp only [BitVec.append_assoc, BitVec.cast_eq]

theorem extract_append_timingFields (tb : BitVec 2) (p : Nat) (sjw : BitVec 2) :
    (tb ++ timingFields p sjw).extractLsb' 26 4 = 0#4 ∧ (tb ++ timingFields p sjw).extractLsb' 24 2 = sjw ∧
      (tb ++ timingFields p sjw).extractLsb' 23 1 = 0#1 ∧ (tb ++ timingFields p sjw).extractLsb' 20 3 = 1#3 ∧
      (tb ++ timingFields p sjw).extractLsb' 16 4 = 3#4 ∧ (tb ++ timingFields p sjw).extractLsb' 10 6 = 0#6 ∧
      (tb ++ timingFields p sjw).extractLsb' 0 10 = BitVec.ofNat 10 (p - 1) := by
  unfold timingFields
  refine ⟨?_, ?_, ?_, ?_, ?_, ?_, ?_⟩ <;>
  · apply BitVec.eq_of_getLsbD_eq
    intro n hn
    simp only [BitVec.getLsbD_extractLsb', BitVec.getLsbD_append]
    interval_cases n <;> simp

/-- `SET_TEST_MODE` puts the test bits in front of bits 29:0 as they were (R109). -/
theorem testModeWord_eq_append (x : Word) (b : BitVec 2) :
    (x &&& 0x3FFFFFFF#32) ||| (b.setWidth 32 <<< 30) = b ++ x.extractLsb' 0 30 := by
  apply BitVec.eq_of_getLsbD_eq
  intro n hn
  simp only [BitVec.getLsbD_append, BitVec.getLsbD_or, BitVec.getLsbD_and, BitVec.getLsbD_shiftLeft,
    BitVec.getLsbD_setWidth, BitVec.getLsbD_extractLsb']
  interval_cases n <;> simp

/-- R108's table gives each mode code as its test bits. -/
theorem testModeBits_testModeOfCode : ∀ b : BitVec 2, testModeBits (testModeOfCode b) = b := by decide

/-- The codes that set SILM and those that set LBKM (R108). -/
theorem modeCode_bits : ∀ b : BitVec 2,
    (b.getLsbD 1 = true ↔ b = 2#2 ∨ b = 3#2) ∧ (b.getLsbD 0 = true ↔ b = 1#2 ∨ b = 3#2) := by decide

/-! ## The rewrite of BTR that both commands make (R104, R109) -/

/-- BTR read, then written as `w`, then the status. -/
def rewriteBtr (i : Inst) (c : StatusCode) (w : Word) (s : State) : State :=
  writeStatus i c (regWrite (.can i .btr) w (s.record (readOf s (.can i .btr))))

section
variable (i : Inst) (c : StatusCode) (w : Word) (s : State)

theorem rewriteBtr_effect :
    Effect i [.can i .btr] [readOf s (.can i .btr), writeOf s (.can i .btr) w]
      { internal s i with status := c.code } s (rewriteBtr i c w s) := by
  have h := Effect.status c ((record_effect i (readOf s (.can i .btr)) s).trans (regWrite_can_effect i .btr w _))
  rwa [(record_effect i _ s).own] at h

@[simp] theorem rewriteBtr_image : (rewriteBtr i c w s).image (.can i .btr) = w := by
  rw [rewriteBtr, (writeStatus_effect i c _).images _ List.not_mem_nil, regWrite_can_image i .btr w _ (.inl rfl)]

@[simp] theorem rewriteBtr_cfg : (rewriteBtr i c w s).cfg = s.cfg := (rewriteBtr_effect i c w s).outside.cfg

@[simp] theorem rewriteBtr_ports : (rewriteBtr i c w s).ports = s.ports := (rewriteBtr_effect i c w s).outside.ports

end

/-! ## The two commands (R104, R109) -/

theorem bitTimingStatus_code (inexact : Bool) :
    (bitTimingStatus inexact).code = if inexact then 0x01#8 else 0x00#8 := by cases inexact <;> rfl

theorem exec_btProgram_of_ok {s : State} {p : Nat} {inexact : Bool}
    (h : btCalc s.cfg.strictBitTiming s.ports.argClock.toNat s.ports.argRate.toNat = .ok (p, inexact)) (i : Inst) :
    exec (.btProgram i) s = .next (rewriteBtr i (bitTimingStatus inexact)
      ((s.image (.can i .btr)).extractLsb' 30 2 ++ timingFields p (sjwField s.cfg.sjwFieldMode)) s) := by
  simp [exec, execBtProgram, argClock, argRate, h, btrWord_eq_append, rewriteBtr]

theorem exec_btProgram_of_error {s : State} {code : StatusCode}
    (h : btCalc s.cfg.strictBitTiming s.ports.argClock.toNat s.ports.argRate.toNat = .error code) (i : Inst) :
    exec (.btProgram i) s = .next (raiseFault i code s) := by
  simp [exec, execBtProgram, argClock, argRate, h]

theorem exec_setTestMode_eq (i : Inst) (s : State) :
    exec (.setTestMode i) s =
      .next (rewriteBtr i .ok (s.ports.argMode ++ (s.image (.can i .btr)).extractLsb' 0 30) s) := by
  simp [exec, execSetTestMode, argMode, testModeBits_testModeOfCode, testModeWord_eq_append, rewriteBtr]

theorem execTwo_of_next {a : Instr} {s t : State} (h : exec a s = .next t) (b : Instr) :
    execTwo a b s = exec b t := by rw [execTwo, h, andThen]

end Sys2Proof.Machine

/-! ## The obligations -/

namespace Sys2Proof.BitTimingProofs

open Sys2Proof.Machine Sys2Proof.Safety

/-- Settles O9: the tests of the calculator as bounds on the clock, and the prescaler as the quotient they bound. -/
theorem btCalcMeetsTheFormula : Obligations.BtCalcMeetsTheFormula := by
  intro strict clock rate
  obtain ⟨hzero, hsmall, hlarge, hinexact⟩ := btCalc_eq_error_iff strict clock rate
  refine ⟨hzero, hsmall, hlarge, hinexact, fun p inexact => ?_⟩
  rw [btCalc_eq_ok_iff]
  refine and_congr_right fun hr => ?_
  rw [div_eq_iff_bounds (by omega)]
  simp only [and_assoc]

/-- Settles O10: the product is above every 32-bit clock, so the quotient is 0. -/
theorem rateProductNeverWraps : Obligations.RateProductNeverWraps := by
  intro i s hrate
  have hclock := s.ports.argClock.isLt
  have h : btCalc s.cfg.strictBitTiming s.ports.argClock.toNat s.ports.argRate.toNat = .error .btPrescalerZero := by
    rw [btCalc_eq, if_neg (by omega), if_pos (by omega)]
  exact ⟨_, exec_btProgram_of_error h i, raiseFault_faulted i .btPrescalerZero s⟩

/-- Settles O11: `clock` is at least `7 · rate · p`, and equal to it exactly when the division is exact. -/
theorem realisedRateIsNeverBelowTarget : Obligations.RealisedRateIsNeverBelowTarget := by
  intro strict clock rate p inexact h
  obtain ⟨hr, ⟨hlo, hhi, hp⟩, -⟩ := (btCalc_eq_ok_iff ..).mp h
  obtain ⟨hpos, -, hle, -⟩ := (div_eq_iff_bounds (by omega)).mp ⟨hlo, hhi, hp⟩
  have hexact : 7 * rate ∣ clock ↔ clock = rate * (7 * p) := by
    rw [← hp, mul_left_comm, ← mul_assoc, eq_comm]
    exact ⟨Nat.mul_div_cancel', Dvd.intro _⟩
  have hpos' : (0 : ℚ) < 7 * p := by positivity
  rw [div_eq_iff hpos'.ne', lt_div_iff₀ hpos', hexact]
  norm_cast
  exact ⟨Iff.rfl, fun hne => lt_of_le_of_ne (by linarith) (Ne.symm hne)⟩

/-- Settles O12: BTR is read and written as the kept test bits and the timing fields, or the fault of R173 is raised. -/
theorem btProgramWritesTimingFieldsOrFaults : Obligations.BtProgramWritesTimingFieldsOrFaults := by
  refine fun i s => ⟨fun p inexact h => ?_, fun code h =>
    ⟨_, exec_btProgram_of_error h i, raiseFault_faulted i code s⟩⟩
  obtain ⟨hr, hp, -⟩ := (btCalc_eq_ok_iff ..).mp h
  obtain ⟨hpos, hmax, -⟩ := (div_eq_iff_bounds (by omega)).mp hp
  obtain ⟨h29, hsjw, h23, hts2, hts1, h15, hbrp⟩ := extract_append_timingFields
    ((s.image (.can i .btr)).extractLsb' 30 2) p (sjwField s.cfg.sjwFieldMode)
  refine ⟨_, _, exec_btProgram_of_ok h i, rewriteBtr_image .., extract_testBits_append .., h29, ?_, h23, hts2,
    hts1, h15, ?_, ?_⟩
  · rw [hsjw]
    cases s.cfg.sjwFieldMode <;> rfl
  · rw [hbrp, BitVec.toNat_ofNat]
    omega
  · rw [← bitTimingStatus_code]
    exact rewriteBtr_effect ..

/-- Settles O13: the second run reads the test bits the first one kept. -/
theorem btProgramTwiceLeavesTheSameWord : Obligations.BtProgramTwiceLeavesTheSameWord := by
  intro i s t h
  cases hc : btCalc s.cfg.strictBitTiming s.ports.argClock.toNat s.ports.argRate.toNat with
  | error code =>
    rw [exec_btProgram_of_error hc] at h
    cases h
    have hf := raiseFault_faulted i code s
    exact ⟨_, exec_btProgram_of_error (by rwa [hf.outside.cfg, hf.outside.ports]) i,
      fun r => (raiseFault_faulted i code _).images r List.not_mem_nil⟩
  | ok pq =>
    obtain ⟨p, inexact⟩ := pq
    rw [exec_btProgram_of_ok hc] at h
    cases h
    refine ⟨_, exec_btProgram_of_ok (by simpa using hc) i, fun r => ?_⟩
    by_cases hr : r = .can i .btr
    · subst hr
      simp
    · exact (rewriteBtr_effect ..).images r (by simpa using hr)

/-- Settles O14: the mode code is written as it is in front of bits 29:0. -/
theorem setTestModeWritesTestBitsOnly : Obligations.SetTestModeWritesTestBitsOnly := by
  intro i s
  obtain ⟨hsilm, hlbkm⟩ := modeCode_bits s.ports.argMode
  refine ⟨_, _, exec_setTestMode_eq i s, rewriteBtr_image .., ?_, ?_, extract_low_append ..,
    rewriteBtr_effect i .ok _ s⟩
  · rw [BitVec.getLsbD_append, if_neg (by decide)]
    exact hsilm
  · rw [BitVec.getLsbD_append, if_neg (by decide)]
    exact hlbkm

/-- Settles O16: each command keeps the part of BTR that the other one writes. -/
theorem btProgramAndSetTestModeCommute : Obligations.BtProgramAndSetTestModeCommute := by
  rintro i s ⟨p, inexact⟩ h
  have hv := exec_btProgram_of_ok h i
  have hw := exec_setTestMode_eq i s
  refine ⟨_, _, _, _, (execTwo_of_next hv _).trans (exec_setTestMode_eq i _),
    (execTwo_of_next hw _).trans (exec_btProgram_of_ok (by simpa using h) i), hv, hw, ?_, ?_, ?_⟩
  all_goals simp

end Sys2Proof.BitTimingProofs
end

section
/-! PROOFS. The obligations about the filter unit (41_filter.md): the configurations refused, the ends of `FLT_INSTALL`,
and the invariant that ties the filter unit to the two cursors. -/

/-! ## The check on a configuration (R52, R121) -/

namespace Sys2Proof.Machine

open Sys2Proof.Safety

theorem banksDisjoint_iff (p : Params) :
    banksDisjoint p = true ↔
      ¬ ∃ k, p.bankBase1 ≤ k ∧ k ≤ p.bankBase1 + 13 ∧ p.bankBase2 ≤ k ∧ k ≤ p.bankBase2 + 13 := by
  simp only [banksDisjoint, Bool.or_eq_true, decide_eq_true_eq]
  constructor
  · rintro h ⟨k, hk⟩
    omega
  · intro h
    by_contra hn
    exact h ⟨max p.bankBase1 p.bankBase2, by omega⟩

theorem banksInRange_iff (p : Params) : banksInRange p = true ↔ ¬ ∃ i : Inst, p.bankBase i + 13 > 27 := by
  rw [banksInRange, Bool.and_eq_true]
  constructor
  · rintro ⟨h1, h2⟩ ⟨i, hi⟩
    cases i with
    | can1 => exact Nat.not_le_of_lt (of_decide_eq_true h1) hi
    | can2 => exact Nat.not_le_of_lt (of_decide_eq_true h2) hi
  · intro h
    exact ⟨decide_eq_true (Nat.lt_of_not_le fun hi => h ⟨.can1, hi⟩),
      decide_eq_true (Nat.lt_of_not_le fun hi => h ⟨.can2, hi⟩)⟩

theorem mapAligned_iff (m : AddressMap) :
    mapAligned m = true ↔
      (¬ ∃ r : Reg, (regAddr m r).toNat % 4 ≠ 0) ∧ ¬ ∃ a ∈ foreignAddrs m, a.toNat % 4 ≠ 0 := by
  simp [mapAligned, mem_allRegs]

/-- An event is never refused for the configuration: that check comes before it (R121). -/
theorem handle_ne_badConfiguration (e : Event) (s : State) : handle e s ≠ .refused .badConfiguration := by
  cases e with
  | command w =>
    simp only [handle, runWord]
    cases decode w with
    | ok a =>
      obtain ⟨t, ht, -⟩ := exec_ends a s
      simp [ht]
    | error e => simp
  | drivePorts p => simp [handle]
  | peripheral i p => simp [handle]
  | reset u => simp [handle]
  | observe o =>
    cases o with
    | pendingRx i => cases hp : (s.ctl i).pendingRx <;> simp [handle, observe, readPendingRx, hp]
    | word a =>
      simp only [handle, observe, memRead]
      cases regAt s.cfg.map a with
      | some r => simp
      | none => cases (foreignAddrs s.cfg.map).contains a <;> simp
    | _ => simp [handle, observe]

/-- A step is refused for the configuration exactly when the check fails. -/
theorem step_eq_badConfiguration_iff (s : State) :
    step s = .refused .badConfiguration ↔ ¬ configurationOk s.cfg = true := by
  by_cases hc : configurationOk s.cfg = true
  · cases hi : s.inbox with
    | nil => simp [step_of_empty hc hi, hc]
    | cons e rest => simp [step_of_event hc hi, hc, handle_ne_badConfiguration]
  · simp [step, takeEvent, hc]

/-! ## The three ends of `FLT_INSTALL` (R124) -/

/-- Bank `k` programmed, the cursor advanced, status OK. -/
def installBank (i : Inst) (k : Fin 28) (w : Word) (s : State) : State :=
  writeStatus i .ok (advanceFilterCount i (programBank k w s))

section
variable {i : Inst} {s : State}

/-- The identifier check, as R128 words it. -/
theorem filterIdInvalid_ports_iff (s : State) :
    filterIdInvalid (argId s) (argFmt s) = true ↔ s.ports.argFmt = 0#1 ∧ 0x800 ≤ s.ports.argId.toNat := by
  have hfmt : ∀ b : BitVec 1, formatOfCode b = .standard ↔ b = 0#1 := by decide
  simp [filterIdInvalid, argId, argFmt, hfmt]

theorem exec_fltInstall_of_saturated (h : 14 ≤ (s.ctl i).filterCount) :
    exec (.fltInstall i) s = .next (writeStatus i .noopSaturated s) := if_pos h

theorem exec_fltInstall_of_invalid (h : (s.ctl i).filterCount < 14)
    (hid : filterIdInvalid (argId s) (argFmt s) = true) :
    exec (.fltInstall i) s = .next (raiseFault i .fltInvalidId s) :=
  (if_neg (Nat.not_le_of_lt h)).trans (if_pos hid)

theorem exec_fltInstall_of_valid (h : (s.ctl i).filterCount < 14)
    (hid : ¬ filterIdInvalid (argId s) (argFmt s) = true) :
    exec (.fltInstall i) s = .next (installBank i (bankIndex i s) (filterWord (argId s) (argFmt s)) s) :=
  (if_neg (Nat.not_le_of_lt h)).trans (if_neg hid)

/-- A successful install, with its premises and its bank as R120 and R128 word them. -/
theorem exec_fltInstall_of_fits {k : Fin 28} (h : (s.ctl i).filterCount < 14)
    (hid : s.ports.argFmt = 0#1 → s.ports.argId.toNat < 0x800)
    (hk : k.val = s.cfg.bankBase i + (s.ctl i).filterCount) :
    exec (.fltInstall i) s = .next (installBank i k (filterWord (argId s) (argFmt s)) s) := by
  have hvalid : ¬ filterIdInvalid (argId s) (argFmt s) = true := by
    rw [filterIdInvalid_ports_iff]
    exact fun ⟨hfmt, hge⟩ => Nat.not_le_of_lt (hid hfmt) hge
  rw [exec_fltInstall_of_valid h hvalid, bankIndex_eq i s k hk]

end

section
variable (i : Inst) (k : Fin 28) (w : Word) (s : State)

/-- The frame of a successful install (R129, R130). -/
theorem installBank_effect :
    Effect i [.flt .fm1r, .flt .fs1r, .flt .ffa1r, .flt .fa1r, .flt (.r1 k), .flt (.r2 k), .flt .fmr]
      (bankAccesses k w s) { internal s i with filterCount := (s.ctl i).filterCount + 1, status := 0x00#8 } s
      (installBank i k w s) := by
  have h := Effect.status .ok ((programBank_effect i k w s).trans (advanceFilterCount_effect i _))
  rw [(programBank_effect i k w s).own, programBank_ctl, List.append_nil, List.append_nil] at h
  exact h

@[simp] theorem installBank_ctl :
    (installBank i k w s).ctl i =
      { s.ctl i with filterCount := (s.ctl i).filterCount + 1, status := 0x00#8 } := by
  simp [installBank, StatusCode.code]

@[simp] theorem installBank_ctl_other : (installBank i k w s).ctl i.other = s.ctl i.other := by simp [installBank]

@[simp] theorem installBank_cfg : (installBank i k w s).cfg = s.cfg := (installBank_effect i k w s).outside.cfg

@[simp] theorem installBank_filter : (installBank i k w s).filter = (programBank k w s).filter := by
  simp [installBank]

/-- The images a successful install leaves are those of its bank steps (R129). -/
theorem installBank_image (r : Reg) : (installBank i k w s).image r = (programBank k w s).image r :=
  ((writeStatus_effect i .ok _).images r List.not_mem_nil).trans
    ((advanceFilterCount_effect i _).images r List.not_mem_nil)

/-- The words of the programmed bank (R129). -/
theorem programBank_bank : (programBank k w s).filter.banks[k] = ⟨w, 0#32⟩ := by
  obtain ⟨-, -, -, -, h1, h2, -⟩ := programBank_images k w s
  exact congrArg₂ Bank.mk h1 h2

end

/-! ## The vectors bit by bit (R34, R129) -/

section
variable (x : Word) (k : Fin 28)

theorem getLsbD_or_bit (n : Nat) : (x ||| 1#32 <<< k.val).getLsbD n = if n = k.val then true else x.getLsbD n := by
  split_ifs with h
  · rw [BitVec.getLsbD_or, getLsbD_bit k n (by omega), decide_eq_true h, Bool.or_true]
  · exact getLsbD_or_bit_ne x (by omega) h

theorem getLsbD_and_not_bit (n : Nat) :
    (x &&& ~~~(1#32 <<< k.val)).getLsbD n = if n = k.val then false else x.getLsbD n := by
  split_ifs with h
  · rw [BitVec.getLsbD_and, BitVec.getLsbD_not, getLsbD_bit k n (by omega), decide_eq_true h, Bool.not_true,
      Bool.and_false, Bool.and_false]
  · exact getLsbD_and_not_bit_ne x (by omega) h

/-- A vector with bank `k` set holds the banks it held, and `k`. -/
theorem getLsbD_or_bit_iff (b : Fin 28) :
    (x ||| 1#32 <<< k.val).getLsbD b.val = true ↔ x.getLsbD b.val = true ∨ b = k := by
  by_cases h : b = k
  · rw [getLsbD_or_bit, if_pos (congrArg Fin.val h)]
    exact iff_of_true rfl (.inr h)
  · rw [getLsbD_or_bit, if_neg (Fin.val_ne_of_ne h), or_iff_left h]

end

theorem extract_low_two_eq_zero {x : Word} (h1 : x.getLsbD 1 = false) (h0 : x.getLsbD 0 = false) :
    x.extractLsb' 0 2 = 0#2 := by
  apply BitVec.eq_of_getLsbD_eq
  intro n hn
  rw [BitVec.getLsbD_extractLsb']
  interval_cases n
  · simpa using h0
  · simpa using h1

/-- Bits 20:3 are among the bits 20:2 that a Standard identifier word leaves 0 (R70). -/
theorem extract_stid_gap_eq_zero {x : Word} (h : x.extractLsb' 2 19 = 0#19) : x.extractLsb' 3 18 = 0#18 := by
  apply BitVec.eq_of_getLsbD_eq
  intro n hn
  have hbit := congrArg (fun y => BitVec.getLsbD y (n + 1)) h
  simp only [BitVec.getLsbD_extractLsb', BitVec.getLsbD_zero] at hbit ⊢
  rw [show 3 + n = 2 + (n + 1) by omega]
  simpa [hn, show n + 1 < 19 by omega] using hbit

theorem getLsbD_zero_and_finit_mask (x : Word) : (x &&& 0xFFFFFFFE#32).getLsbD 0 = false := by simp

end Sys2Proof.Machine

/-! ## What commands and events leave of the filter unit and the cursors -/

namespace Sys2Proof.Safety

open Sys2Proof.Machine

/-- The configuration, both cursors and the filter unit are as before. -/
structure FilterKept (s t : State) : Prop where
  cfg : t.cfg = s.cfg
  counts : ∀ i, (t.ctl i).filterCount = (s.ctl i).filterCount
  filter : t.filter = s.filter

/-- No receive-handler edit reaches the filter unit or a cursor. -/
theorem ReceiveEdit.filterKept (e : ReceiveEdit) (i : Inst) (bus : List Access) (s : State) :
    FilterKept s (e.apply i bus s) where
  cfg := by simp [ReceiveEdit.apply]
  counts j := by
    rw [ReceiveEdit.apply_ctl]
    split_ifs <;> rfl
  filter := by simp [ReceiveEdit.apply]

/-- An application edit that keeps its instance's cursor and the filter unit. -/
theorem ApplicationEdit.filterKept {e : ApplicationEdit} {i : Inst} {s : State}
    (h : e.filterCount = (s.ctl i).filterCount ∧ e.filter = s.filter) (bus : List Access) :
    FilterKept s (e.apply i bus s) where
  cfg := by simp [ApplicationEdit.apply]
  counts j := by
    rw [ApplicationEdit.apply_ctl]
    split_ifs with hj
    · subst hj; exact h.1
    · rfl
  filter := h.2

theorem raiseFault_filterKept (i : Inst) (c : StatusCode) (s : State) : FilterKept s (raiseFault i c s) where
  cfg := (raiseFault_faulted i c s).outside.cfg
  counts j := by obtain rfl | rfl := Inst.eq_or_other i j <;> simp
  filter := raiseFault_filter i c s

theorem writeStatus_filterKept (i : Inst) (c : StatusCode) (s : State) : FilterKept s (writeStatus i c s) where
  cfg := (writeStatus_effect i c s).outside.cfg
  counts j := by obtain rfl | rfl := Inst.eq_or_other i j <;> simp
  filter := writeStatus_filter i c s

theorem showPeripheral_filterKept (i : Inst) (p : PeripheralInputs) (s : State) :
    FilterKept s (showPeripheral i p s) where
  cfg := (showPeripheral_outsideKept i p s).cfg
  counts j := by obtain rfl | rfl := Inst.eq_or_other i j <;> simp
  filter := showPeripheral_filter i p s

/-- What a command does to the filter unit and the cursors: nothing, or one successful install (R127). -/
theorem exec_filter_cases {a : Instr} {s t : State} (h : exec a s = .next t) :
    FilterKept s t ∨ ∃ i, a = .fltInstall i ∧ (s.ctl i).filterCount < 14 ∧
      t = installBank i (bankIndex i s) (filterWord (argId s) (argFmt s)) s := by
  cases a with
  | fltInstall i =>
    by_cases hcount : (s.ctl i).filterCount < 14
    · by_cases hid : filterIdInvalid (argId s) (argFmt s) = true
      · cases (exec_fltInstall_of_invalid hcount hid).symm.trans h
        exact .inl (raiseFault_filterKept ..)
      · cases (exec_fltInstall_of_valid hcount hid).symm.trans h
        exact .inr ⟨i, rfl, hcount, rfl⟩
    · cases (exec_fltInstall_of_saturated (Nat.le_of_not_lt hcount)).symm.trans h
      exact .inl (writeStatus_filterKept ..)
  | btProgram i =>
    obtain ⟨bus, he⟩ := execBtProgram_eq_edit i s
    cases he.symm.trans h
    exact .inl (ApplicationEdit.filterKept (by unfold btProgramEdit; split <;> exact ⟨rfl, rfl⟩) bus)
  | setTestMode i =>
    obtain ⟨bus, he⟩ := execSetTestMode_eq_edit i s
    cases he.symm.trans h
    exact .inl (ApplicationEdit.filterKept ⟨rfl, rfl⟩ bus)
  | txLoad i =>
    obtain ⟨bus, he⟩ := execTxLoad_eq_edit i s
    cases he.symm.trans h
    refine .inl (ApplicationEdit.filterKept ?_ bus)
    unfold txLoadEdit
    split
    · exact ⟨rfl, rfl⟩
    · split <;> exact ⟨rfl, rfl⟩
  | txRequest i =>
    obtain ⟨bus, he⟩ := execTxRequest_eq_edit i s
    cases he.symm.trans h
    exact .inl (ApplicationEdit.filterKept (by unfold txRequestEdit; split <;> exact ⟨rfl, rfl⟩) bus)
  | rxDecode i =>
    obtain ⟨bus, he⟩ := execRxDecode_eq_edit i s
    cases he.symm.trans h
    exact .inl (ReceiveEdit.filterKept ..)
  | rxRelease i =>
    obtain ⟨bus, he⟩ := execRxRelease_eq_edit i s
    cases he.symm.trans h
    exact .inl (ReceiveEdit.filterKept ..)

/-! ## The filter invariant -/

/-- A filter word has its two low bits 0, and bits 20:3 too when Standard (R70, R74). -/
theorem isFilterWord_filterWord (id : BitVec 29) (fmt : Format) : IsFilterWord (filterWord id fmt) := by
  rw [IsFilterWord, filterWord]
  cases fmt with
  | standard =>
    obtain ⟨-, hzero, hrtr, hbit0⟩ := encodeIdWord_standard_bits id .data
    exact ⟨extract_low_two_eq_zero (by simpa using hrtr) hbit0, fun _ => extract_stid_gap_eq_zero hzero⟩
  | extended =>
    obtain ⟨-, hide, hrtr, hbit0⟩ := encodeIdWord_extended_bits id .data
    exact ⟨extract_low_two_eq_zero (by simpa using hrtr) hbit0, fun h => absurd (hide.symm.trans h) (by decide)⟩

/-- `Installed` by the instance a command addresses and the other one. -/
theorem installed_iff (s : State) (i : Inst) (b : Fin 28) :
    Installed s b ↔ InstalledBy s i b ∨ InstalledBy s i.other b := by
  cases i
  · exact Iff.rfl
  · exact Or.comm

/-- An install adds its bank to the installed ones (R120, R127). -/
theorem installed_installBank {i : Inst} {k : Fin 28} {s : State}
    (hk : k.val = s.cfg.bankBase i + (s.ctl i).filterCount) (w : Word) (b : Fin 28) :
    Installed (installBank i k w s) b ↔ Installed s b ∨ b = k := by
  simp only [installed_iff _ i, InstalledBy, installBank_cfg, installBank_ctl, installBank_ctl_other, Fin.ext_iff]
  omega

/-- With both cursors at 0 no bank is installed (R120). -/
theorem not_installed_of_counts_zero {s : State} (h : ∀ i, (s.ctl i).filterCount = 0) (b : Fin 28) :
    ¬ Installed s b := by
  simp only [installed_iff _ .can1, InstalledBy, h]
  omega

/-- The invariant speaks of the configuration, the cursors and the filter unit only. -/
theorem FilterInv.of_kept {s t : State} (hinv : FilterInv s) (h : FilterKept s t) : FilterInv t := by
  obtain ⟨hcfg, hcounts, hfilter⟩ := h
  have hinst : ∀ b, Installed t b ↔ Installed s b := fun b => by
    simp only [installed_iff _ .can1, InstalledBy, hcfg, hcounts]
  have h1 : t.can1.filterCount = s.can1.filterCount := hcounts .can1
  have h2 : t.can2.filterCount = s.can2.filterCount := hcounts .can2
  constructor <;> simp only [hinst, h1, h2, hfilter]
  · exact hinv.counts
  · exact hinv.active
  · exact hinv.scale
  · exact hinv.listMode
  · exact hinv.toFifo0
  · exact hinv.words
  · exact hinv.finit

/-- An install keeps the invariant: it sets bank `k` in three vectors, clears it in FFA1R, writes its words and clears
FINIT, and `k` is the one bank its cursor newly counts (R129). -/
theorem FilterInv.of_install {i : Inst} {k : Fin 28} {s : State} (hinv : FilterInv s)
    (hcount : (s.ctl i).filterCount < 14) (hk : k.val = s.cfg.bankBase i + (s.ctl i).filterCount) {w : Word}
    (hw : IsFilterWord w) : FilterInv (installBank i k w s) := by
  obtain ⟨hm, hs, hf, ha, hfmr⟩ := programBank_fields k w s
  have hinst := installed_installBank hk w
  have hown : ((installBank i k w s).ctl i).filterCount = (s.ctl i).filterCount + 1 := by simp
  have hother : ((installBank i k w s).ctl i.other).filterCount = (s.ctl i.other).filterCount := by simp
  refine ⟨?_, fun b => ?_, fun b => ?_, fun b => ?_, fun b => ?_, fun b hb => ?_, ?_⟩
  · have hcounts := hinv.counts
    cases i <;> simp only [State.ctl, Inst.other] at hown hother hcount <;> omega
  · rw [installBank_filter, ha, getLsbD_or_bit_iff, hinst, hinv.active]
  · rw [installBank_filter, hs, getLsbD_or_bit_iff, hinst, hinv.scale]
  · rw [installBank_filter, hm, getLsbD_or_bit_iff, hinst, hinv.listMode]
  · rw [installBank_filter, hf, getLsbD_and_not_bit, hinv.toFifo0, ite_self]
  · rw [installBank_filter]
    by_cases hbk : b = k
    · subst hbk
      rw [programBank_bank]
      exact ⟨hw, rfl⟩
    · rw [programBank_banks_ne k w s hbk]
      exact hinv.words b (((hinst b).mp hb).resolve_right hbk)
  · rw [installBank_filter, hfmr]
    refine iff_of_true (getLsbD_zero_and_finit_mask _) ?_
    cases i <;> simp only [State.ctl] at hown <;> omega

/-- Reset meets the invariant from any state and with any unspecified values (R201, R203). -/
theorem applyReset_filterInv (u : Unspecified) (s : State) : FilterInv (applyReset u s) := by
  have hnone := not_installed_of_counts_zero (s := applyReset u s) fun i => by cases i <;> rfl
  exact
    { counts := ⟨Nat.zero_le _, Nat.zero_le _⟩
      active := fun b => iff_of_false (by simp [applyReset, FilterUnit.reset]) (hnone b)
      scale := fun b => iff_of_false (by simp [applyReset, FilterUnit.reset]) (hnone b)
      listMode := fun b => iff_of_false (by simp [applyReset, FilterUnit.reset]) (hnone b)
      toFifo0 := fun b => by simp [applyReset, FilterUnit.reset]
      words := fun b hb => absurd hb (hnone b)
      finit := iff_of_false (show ¬ Config.fmrReset.getLsbD 0 = false by decide)
        (show ¬ (0 < 0 ∨ 0 < 0) by decide) }

theorem exec_keeps_filterInv {a : Instr} {s t : State} (hc : configurationOk s.cfg = true) (hinv : FilterInv s)
    (h : exec a s = .next t) : FilterInv t := by
  obtain hkept | ⟨i, -, hcount, rfl⟩ := exec_filter_cases h
  · exact hinv.of_kept hkept
  · exact hinv.of_install hcount (bankIndex_val hc hcount) (isFilterWord_filterWord _ _)

theorem handle_keeps_filterInv {e : Event} {s t : State} (hc : configurationOk s.cfg = true) (hinv : FilterInv s)
    (h : handle e s = .next t) : FilterInv t := by
  obtain ⟨w, a, rfl, -, hx⟩ | ⟨w, j, rfl, rfl⟩ | ⟨p, rfl, rfl⟩ | ⟨j, p, rfl, rfl⟩ | ⟨u, rfl, rfl⟩ | ⟨o, rfl, rfl⟩ :=
    handle_cases h
  · exact exec_keeps_filterInv hc hinv hx
  · exact hinv.of_kept (raiseFault_filterKept j .illegalCommand s)
  · exact { hinv with }
  · exact hinv.of_kept (showPeripheral_filterKept j p s)
  · exact applyReset_filterInv u s
  · exact hinv

theorem step_keeps_filterInv {s t : State} (hinv : FilterInv s) (h : step s = .next t) : FilterInv t := by
  obtain ⟨hc, ⟨-, rfl⟩ | ⟨e, rest, -, hx⟩⟩ := step_cases h
  · exact hinv
  · exact handle_keeps_filterInv (s := { s with inbox := rest }) hc { hinv with } hx

end Sys2Proof.Safety

/-! ## The obligations -/

namespace Sys2Proof.FilterProofs

open Sys2Proof.Machine Sys2Proof.Safety

/-- Settles O60: a step that answers runs in an admitted configuration, where an install programs exactly the bank its
cursor newly counts; reset clears the vectors and the cursors; nothing else reaches either. -/
theorem everyStepKeepsTheFilterInvariant : Obligations.EveryStepKeepsTheFilterInvariant :=
  fun _ _ hinv h => step_keeps_filterInv hinv h

/-- Settles O7: the step makes the check before it takes an event, and no event is refused in this way later. -/
theorem badConfigurationsAreRefused : Obligations.BadConfigurationsAreRefused := by
  intro s
  rw [step_eq_badConfiguration_iff, configurationOk, Bool.and_eq_true, Bool.and_eq_true, banksDisjoint_iff,
    banksInRange_iff, mapAligned_iff]
  simp only [not_and_or, not_not, or_assoc]

/-- Settles O17: the images are those `programBank` leaves, and the frame is that of the whole install. -/
theorem fltInstallProgramsTheNextBank : Obligations.FltInstallProgramsTheNextBank := by
  intro i s k _ hcount hid hk
  obtain ⟨hm, hs, hf, ha, h1, h2, hfmr⟩ := programBank_images k (filterWord (argId s) (argFmt s)) s
  refine ⟨_, _, exec_fltInstall_of_fits hcount hid hk, ?_, ?_, ?_, ?_, ?_, ?_, ?_, ?_, installBank_effect ..⟩
  all_goals rw [installBank_image]
  · rw [hm]; exact getLsbD_or_bit _ k
  · rw [hs]; exact getLsbD_or_bit _ k
  · rw [hf]; exact getLsbD_and_not_bit _ k
  · rw [ha]; exact getLsbD_or_bit _ k
  · exact h1
  · exact h2
  · rw [hfmr]; exact getLsbD_zero_and_finit_mask _
  · rw [hfmr]; exact extract_and_finit_mask _

/-- Settles O18: the status and the cursor are no register, so the accesses are those of the bank. -/
theorem fltInstallAccessesInOrder : Obligations.FltInstallAccessesInOrder := by
  intro i s k _ hcount hid hk
  exact ⟨_, exec_fltInstall_of_fits hcount hid hk, (installBank_effect ..).bus⟩

/-- Settles O21: a command that moves a cursor is a successful install, which moves its own instance's only. -/
theorem filterCountChangesOnlyBySuccessfulInstall : Obligations.FilterCountChangesOnlyBySuccessfulInstall := by
  intro a s t j h
  obtain hkept | ⟨i, rfl, hcount, rfl⟩ := exec_filter_cases h
  · exact .inl (hkept.counts j)
  · obtain rfl | rfl := Inst.eq_or_other i j
    · exact .inr ⟨rfl, hcount, by simp, by simp⟩
    · exact .inl (by simp)

/-- Settles O19: saturation is checked first. -/
theorem saturatedInstallTouchesNothing : Obligations.SaturatedInstallTouchesNothing :=
  fun i s h => ⟨_, exec_fltInstall_of_saturated h, writeStatus_effect i .noopSaturated s⟩

/-- Settles O20: the identifier is checked before any access. -/
theorem invalidFilterIdTouchesNothing : Obligations.InvalidFilterIdTouchesNothing :=
  fun i s hcount hfmt hid =>
    ⟨_, exec_fltInstall_of_invalid hcount ((filterIdInvalid_ports_iff s).mpr ⟨hfmt, hid⟩),
      raiseFault_faulted i .fltInvalidId s⟩

end Sys2Proof.FilterProofs
end

section
/-! PROOFS. The obligations about the frame codec (42_frame_codec.md): Message validation, the round trip of a Message
through its register words, the four frame commands, and a Message sent and received through the driver calls. -/

/-! ## Words and Messages (R37, R70 to R73, R140 to R144) -/

namespace Sys2Proof

theorem Message.valid_iff (m : Message) :
    m.valid = true ↔ m.identifierFits = true ∧ m.length.toNat ≤ 8 := by
  rw [Message.valid, Bool.and_eq_true, Message.lengthFits, decide_eq_true_iff]

end Sys2Proof

namespace Sys2Proof.Machine

open Sys2Proof.Safety

section
variable {v w : Word} {a n : Nat}

/-- Words that agree on a range of bits agree on each bit in it. -/
theorem getLsbD_eq_of_extract_eq (h : v.extractLsb' a n = w.extractLsb' a n) (k : Nat) (hk : a ≤ k ∧ k < a + n) :
    v.getLsbD k = w.getLsbD k := by
  have hbit := congrArg (fun x => BitVec.getLsbD x (k - a)) h
  simpa [BitVec.getLsbD_extractLsb', show k - a < n by omega, show a + (k - a) = k by omega] using hbit

/-- Words that agree on a range of bits agree on each range inside it. -/
theorem extract_eq_of_extract_eq (h : v.extractLsb' a n = w.extractLsb' a n) (b m : Nat)
    (hb : a ≤ b ∧ b + m ≤ a + n) : v.extractLsb' b m = w.extractLsb' b m := by
  apply BitVec.eq_of_getLsbD_eq
  intro k hk
  rw [BitVec.getLsbD_extractLsb', BitVec.getLsbD_extractLsb', getLsbD_eq_of_extract_eq h (b + k) (by omega)]

end

/-- A one-bit field is 1 when its bit is. -/
theorem extract_bit_eq_one_iff (w : Word) (k : Nat) : w.extractLsb' k 1 = 1#1 ↔ w.getLsbD k = true := by
  have hbit : w.extractLsb' k 1 = BitVec.ofBool (w.getLsbD k) := by
    apply BitVec.eq_of_getLsbD_eq
    intro n hn
    obtain rfl : n = 0 := by omega
    simp
  rw [hbit]
  cases w.getLsbD k <;> decide

/-- The frame type that the RTR bit shows (R71). -/
theorem ite_rtr_eq {w : Word} {type : FrameType} (h : w.getLsbD 1 = decide (type = .remote)) :
    (if w.extractLsb' 1 1 = 1#1 then FrameType.remote else .data) = type := by
  simp only [extract_bit_eq_one_iff, h]
  cases type <;> rfl

/-- An identifier below 2^11 is the value of its eleven low bits. -/
theorem setWidth_extract_of_fits {id : BitVec 29} (h : id.toNat < 2 ^ 11) :
    (id.extractLsb' 0 11).setWidth 29 = id := by
  apply BitVec.eq_of_toNat_eq
  rw [BitVec.toNat_setWidth, BitVec.extractLsb'_toNat, Nat.shiftRight_zero, Nat.mod_eq_of_lt h,
    Nat.mod_eq_of_lt id.isLt]

/-- A word with the fields of a Standard identifier decodes to it, whatever its other bits (R71). -/
theorem decodeIdWord_of_standard {w : Word} {id : BitVec 29} {type : FrameType} (hfits : id.toNat < 2 ^ 11)
    (hid : w.extractLsb' 21 11 = id.extractLsb' 0 11) (hide : w.getLsbD 2 = false)
    (hrtr : w.getLsbD 1 = decide (type = .remote)) : decodeIdWord w = (id, .standard, type) := by
  have hfmt : ¬ w.extractLsb' 2 1 = 1#1 := by
    rw [extract_bit_eq_one_iff, hide]
    decide
  simp only [decodeIdWord, if_neg hfmt, hid, setWidth_extract_of_fits hfits, ite_rtr_eq hrtr]

/-- A word with the fields of an Extended identifier decodes to it, whatever bit 0 (R71). -/
theorem decodeIdWord_of_extended {w : Word} {id : BitVec 29} {type : FrameType} (hid : w.extractLsb' 3 29 = id)
    (hide : w.getLsbD 2 = true) (hrtr : w.getLsbD 1 = decide (type = .remote)) :
    decodeIdWord w = (id, .extended, type) := by
  have hfmt : w.extractLsb' 2 1 = 1#1 := (extract_bit_eq_one_iff w 2).mpr hide
  simp only [decodeIdWord, if_pos hfmt, hid, ite_rtr_eq hrtr]

/-- A word that agrees with a Standard identifier word on its fields decodes to what was encoded (R144). -/
theorem decodeIdWord_of_encoded_standard {w : Word} {id : BitVec 29} {type : FrameType} (hfits : id.toNat < 2 ^ 11)
    (hid : w.extractLsb' 21 11 = (encodeIdWord id .standard type).extractLsb' 21 11)
    (hflags : w.extractLsb' 1 2 = (encodeIdWord id .standard type).extractLsb' 1 2) :
    decodeIdWord w = (id, .standard, type) := by
  obtain ⟨eid, egap, ertr, -⟩ := encodeIdWord_standard_bits id type
  have eide : (encodeIdWord id .standard type).getLsbD 2 = false := by
    have hbit := congrArg (fun x => BitVec.getLsbD x 0) egap
    simpa using hbit
  exact decodeIdWord_of_standard hfits (hid.trans eid)
    ((getLsbD_eq_of_extract_eq hflags 2 (by decide)).trans eide)
    ((getLsbD_eq_of_extract_eq hflags 1 (by decide)).trans ertr)

/-- A word that agrees with an Extended identifier word but for bit 0 decodes to what was encoded (R144). -/
theorem decodeIdWord_of_encoded_extended {w : Word} {id : BitVec 29} {type : FrameType}
    (h : w.extractLsb' 1 31 = (encodeIdWord id .extended type).extractLsb' 1 31) :
    decodeIdWord w = (id, .extended, type) := by
  obtain ⟨eid, eide, ertr, -⟩ := encodeIdWord_extended_bits id type
  exact decodeIdWord_of_extended ((extract_eq_of_extract_eq h 3 29 (by decide)).trans eid)
    ((getLsbD_eq_of_extract_eq h 2 (by decide)).trans eide) ((getLsbD_eq_of_extract_eq h 1 (by decide)).trans ertr)

/-- The identifier word of a valid Message decodes to the identifier, the format and the frame type, whatever bit 0. -/
theorem decodeIdWord_of_message {m : Message} {w : Word} (hm : m.identifierFits = true)
    (h : w.extractLsb' 1 31 = (encodeMsg m).ti.extractLsb' 1 31) :
    decodeIdWord w = (m.identifier, m.identifierFormat, m.frameType) := by
  rw [encodeMsg] at h
  cases hf : m.identifierFormat with
  | standard =>
    rw [hf] at h
    rw [Message.identifierFits, hf] at hm
    exact decodeIdWord_of_encoded_standard (of_decide_eq_true hm) (extract_eq_of_extract_eq h 21 11 (by decide))
      (extract_eq_of_extract_eq h 1 2 (by decide))
  | extended =>
    exact decodeIdWord_of_encoded_extended (hf ▸ h)

/-- Validation with its two identifier tests as one (R37, R140). -/
theorem validateMsg_eq (m : Message) :
    validateMsg m =
      if m.identifierFits = false then .error .msgInvalidId
      else if m.length.toNat > 8 then .error .msgInvalidLength
      else .ok () := by
  cases hf : m.identifierFormat <;> simp [validateMsg, Message.identifierFits, hf]

theorem validateMsg_of_valid {m : Message} (h : m.valid = true) : validateMsg m = .ok () := by
  obtain ⟨hid, hlen⟩ := (Message.valid_iff m).mp h
  rw [validateMsg_eq, if_neg (by simp [hid]), if_neg (by omega)]

/-- The DLC field as a number (R72). -/
theorem dlc_toNat (w : Word) : (w.extractLsb' 0 4).toNat = w.toNat % 16 := by
  rw [BitVec.extractLsb'_toNat, Nat.shiftRight_zero]

section
variable {ri rdt rdl rdh : Word}

theorem decodeEntry_of_dlc_gt (h : rdt.toNat % 16 > 8) : decodeEntry ri rdt rdl rdh = .error .rxDlcRange := by
  rw [decodeEntry, if_pos (by rwa [dlc_toNat])]

theorem decodeEntry_of_dlc_le (h : rdt.toNat % 16 ≤ 8) :
    decodeEntry ri rdt rdl rdh =
      .ok ⟨(decodeIdWord ri).1, (decodeIdWord ri).2.1, (decodeIdWord ri).2.2, rdt.extractLsb' 0 4,
        unpack rdl rdh⟩ := by
  rw [decodeEntry, if_neg (by rw [dlc_toNat]; omega)]

/-- An entry with the identifier word and the DLC of a valid Message is that Message with the entry's own bytes (R143). -/
theorem decodeEntry_of_encoded {m : Message} (hm : m.valid = true)
    (hri : ri.extractLsb' 1 31 = (encodeMsg m).ti.extractLsb' 1 31)
    (hrdt : rdt.extractLsb' 0 4 = (encodeMsg m).tdt.extractLsb' 0 4) :
    decodeEntry ri rdt rdl rdh = .ok { m with payload := unpack rdl rdh } := by
  obtain ⟨hid, hlen⟩ := (Message.valid_iff m).mp hm
  have hdlc : rdt.extractLsb' 0 4 = m.length :=
    hrdt.trans ((BitVec.extractLsb'_setWidth_of_le (by decide)).trans BitVec.extractLsb'_eq_self)
  rw [decodeEntry_of_dlc_le (by rwa [← dlc_toNat, hdlc]), decodeIdWord_of_message hid hri, hdlc]

end

end Sys2Proof.Machine

/-! ## Effects, read by their parts -/

namespace Sys2Proof.Safety

open Sys2Proof.Machine

/-- A write is seen at the same address where the map is the same (R58). -/
theorem writeOf_of_cfg {s t : State} (h : t.cfg = s.cfg) (r : Reg) (v : Word) : writeOf t r v = writeOf s r v := by
  rw [writeOf, writeOf, addrOf, addrOf, h]

/-- An effect that keeps the slot of its own instance keeps the slots of both. -/
theorem pendingRx_kept_of_effect {i : Inst} {w : List Reg} {m : List Access} {n : Internal} {s t : State}
    (h : Effect i w m n s t) (hown : n.pendingRx = (s.ctl i).pendingRx) (j : Inst) :
    (t.ctl j).pendingRx = (s.ctl j).pendingRx := by
  obtain rfl | rfl := Inst.eq_or_other i j
  · exact (congrArg Internal.pendingRx h.own).trans hown
  · exact congrArg Internal.pendingRx h.other

/-- No application edit reaches a slot (R156). -/
theorem ApplicationEdit.apply_pendingRx (e : ApplicationEdit) (i j : Inst) (bus : List Access) (s : State) :
    ((e.apply i bus s).ctl j).pendingRx = (s.ctl j).pendingRx := by
  rw [ApplicationEdit.apply_ctl]
  split_ifs <;> rfl

end Sys2Proof.Safety

/-! ## `TX_LOAD` and `TX_REQUEST` (R146, R150) -/

namespace Sys2Proof.Machine

open Sys2Proof.Safety

/-- The four mailbox words of a Message written, `txLoaded` set, status OK. -/
def loadMessage (i : Inst) (m : Message) (s : State) : State :=
  writeStatus i .ok (setTxLoaded i true (loadMailbox i (encodeMsg m) s))

/-- TXRQ set by read-modify-write, `txLoaded` cleared, status OK. -/
def requestMailbox (i : Inst) (s : State) : State :=
  writeStatus i .ok (setTxLoaded i false (fieldWrite (.can i .ti0r) 0 0 1#32 s))

section
variable (i : Inst) (m : Message) (s : State)

theorem exec_txLoad_of_error {code : StatusCode} (h : validateMsg s.ports.argMsg = .error code) :
    exec (.txLoad i) s = .next (raiseFault i code s) := by
  rw [exec, execTxLoad, argMsg, h]

theorem exec_txLoad_of_valid (hm : s.ports.argMsg.valid = true) (hfree : (s.ctl i).mb0Empty = true) :
    exec (.txLoad i) s = .next (loadMessage i s.ports.argMsg s) := by
  simp [exec, execTxLoad, argMsg, validateMsg_of_valid hm, mailboxFree, hfree, loadMessage]

theorem loadMessage_effect :
    Effect i [.can i .ti0r, .can i .tdt0r, .can i .tdl0r, .can i .tdh0r] (mailboxAccesses i (encodeMsg m) s)
      { internal s i with txLoaded := true, status := 0x00#8 } s (loadMessage i m s) := by
  have h := Effect.status .ok ((loadMailbox_effect i (encodeMsg m) s).trans (setTxLoaded_effect i true _))
  rw [(loadMailbox_effect i _ s).own, List.append_nil, List.append_nil] at h
  exact h

/-- The status and `txLoaded` are no register, so the images are those of the five writes. -/
theorem loadMessage_images :
    (loadMessage i m s).image (.can i .ti0r) = (encodeMsg m).ti ∧
    (loadMessage i m s).image (.can i .tdt0r) = (encodeMsg m).tdt ∧
    (loadMessage i m s).image (.can i .tdl0r) = (encodeMsg m).tdl ∧
    (loadMessage i m s).image (.can i .tdh0r) = (encodeMsg m).tdh := by
  have hkept : ∀ r, (loadMessage i m s).image r = (loadMailbox i (encodeMsg m) s).image r := fun r =>
    ((writeStatus_effect i .ok _).images r List.not_mem_nil).trans
      ((setTxLoaded_effect i true _).images r List.not_mem_nil)
  simp only [hkept]
  exact loadMailbox_images i (encodeMsg m) s

theorem exec_txRequest_of_loaded (h : (s.ctl i).txLoaded = true) :
    exec (.txRequest i) s = .next (requestMailbox i s) := by
  simp [exec, execTxRequest, mailboxLoaded, h, requestMailbox]

theorem requestMailbox_image :
    (requestMailbox i s).image (.can i .ti0r) = s.image (.can i .ti0r) ||| 1#32 := by
  rw [requestMailbox, (writeStatus_effect i .ok _).images _ List.not_mem_nil,
    (setTxLoaded_effect i false _).images _ List.not_mem_nil, fieldWrite_eq,
    regWrite_can_image i .ti0r _ _ (.inr (.inl rfl)), insertField_bit_set, BitVec.shiftLeft_zero]

theorem requestMailbox_effect :
    Effect i [.can i .ti0r] [readOf s (.can i .ti0r), writeOf s (.can i .ti0r) (s.image (.can i .ti0r) ||| 1#32)]
      { internal s i with txLoaded := false, status := 0x00#8 } s (requestMailbox i s) := by
  have h := Effect.status .ok ((fieldWrite_can_effect i .ti0r 0 0 1#32 s).trans (setTxLoaded_effect i false _))
  rw [(fieldWrite_can_effect i .ti0r 0 0 1#32 s).own, insertField_bit_set, BitVec.shiftLeft_zero, List.append_nil,
    List.append_nil] at h
  exact h

end

/-! ## `RX_DECODE` (R155, R156) -/

/-- The reads a decode makes. -/
def rxDecodeReads (i : Inst) (s : State) : List Access :=
  if (s.image (.can i .rf0r)).extractLsb' 0 2 = 0#2 then [readOf s (.can i .rf0r)] else fifoAccesses i s

/-- What a decode of the FIFO in `s` makes of the internal state `n` of the instance. -/
def rxDecodeResult (i : Inst) (s : State) (n : Internal) : Internal :=
  if (s.image (.can i .rf0r)).extractLsb' 0 2 = 0#2 then
    { n with status := StatusCode.rxEmpty.code, faultLatch := true }
  else
    match fifoEntry i s with
    | .error code => { n with status := code.code, faultLatch := true }
    | .ok m => { n with pendingRx := some m, rxHeld := true, status := 0x00#8 }

section
variable {i : Inst} {s : State} (n : Internal)

theorem rxDecodeResult_of_empty (h : (s.image (.can i .rf0r)).extractLsb' 0 2 = 0#2) :
    rxDecodeResult i s n = { n with status := StatusCode.rxEmpty.code, faultLatch := true } := if_pos h

theorem rxDecodeResult_of_error (h : (s.image (.can i .rf0r)).extractLsb' 0 2 ≠ 0#2) {code : StatusCode}
    (hd : fifoEntry i s = .error code) :
    rxDecodeResult i s n = { n with status := code.code, faultLatch := true } := by
  rw [rxDecodeResult, if_neg h, hd]

theorem rxDecodeResult_of_ok (h : (s.image (.can i .rf0r)).extractLsb' 0 2 ≠ 0#2) {m : Message}
    (hd : fifoEntry i s = .ok m) :
    rxDecodeResult i s n = { n with pendingRx := some m, rxHeld := true, status := 0x00#8 } := by
  rw [rxDecodeResult, if_neg h, hd]

/-- The same FIFO decoded again leaves what the first decode left. -/
theorem rxDecodeResult_idem : rxDecodeResult i s (rxDecodeResult i s n) = rxDecodeResult i s n := by
  unfold rxDecodeResult
  split_ifs
  · rfl
  · cases fifoEntry i s <;> rfl

/-- A decode depends on the register images only. -/
theorem rxDecodeResult_of_images {t : State} (h : ImagesKeptBut [] s t) :
    rxDecodeResult i t n = rxDecodeResult i s n := by
  simp only [rxDecodeResult, fifoEntry, h _ List.not_mem_nil]

/-- A slot that a decode changes holds the entry, with `rxHeld` set and status OK (R156). -/
theorem rxDecodeResult_pendingRx_cases :
    (rxDecodeResult i s n).pendingRx = n.pendingRx ∨
      ∃ m, fifoEntry i s = .ok m ∧
        rxDecodeResult i s n = { n with pendingRx := some m, rxHeld := true, status := 0x00#8 } := by
  by_cases h : (s.image (.can i .rf0r)).extractLsb' 0 2 = 0#2
  · exact .inl (by rw [rxDecodeResult_of_empty n h])
  · cases hd : fifoEntry i s with
    | error code => exact .inl (by rw [rxDecodeResult_of_error n h hd])
    | ok m => exact .inr ⟨m, rfl, rxDecodeResult_of_ok n h hd⟩

/-- The status tells a decode that found the FIFO empty from one that did not (R88). -/
theorem rxDecodeResult_status_eq_rxEmpty_iff :
    (rxDecodeResult i s n).status = StatusCode.rxEmpty.code ↔
      (s.image (.can i .rf0r)).extractLsb' 0 2 = 0#2 := by
  by_cases h : (s.image (.can i .rf0r)).extractLsb' 0 2 = 0#2
  · simp [rxDecodeResult_of_empty n h, h]
  · cases hd : fifoEntry i s with
    | error code =>
      cases decodeEntry_error hd
      rw [rxDecodeResult_of_error n h hd]
      exact iff_of_false (by decide : StatusCode.rxDlcRange.code ≠ StatusCode.rxEmpty.code) h
    | ok m =>
      rw [rxDecodeResult_of_ok n h hd]
      exact iff_of_false (by decide : 0x00#8 ≠ StatusCode.rxEmpty.code) h

end

/-- What a decode does, in every state: reads, and the internal state of its own instance (R155). -/
theorem exec_rxDecode_effect (i : Inst) (s : State) :
    ∃ t, exec (.rxDecode i) s = .next t ∧
      Effect i [] (rxDecodeReads i s) (rxDecodeResult i s (internal s i)) s t := by
  rw [exec]
  by_cases h : (s.image (.can i .rf0r)).extractLsb' 0 2 = 0#2
  · rw [execRxDecode_of_empty i s h, rxDecodeReads, if_pos h, rxDecodeResult_of_empty _ h]
    exact ⟨_, rfl, Effect.fault .rxEmpty (record_effect i _ s)⟩
  · rw [execRxDecode_of_pending i s h, rxDecodeReads, if_neg h]
    cases hd : fifoEntry i s with
    | error code =>
      rw [rxDecodeResult_of_error _ h hd]
      exact ⟨_, rfl, Effect.fault code (afterFifoReads_effect i s)⟩
    | ok m =>
      rw [rxDecodeResult_of_ok _ h hd]
      exact ⟨_, rfl, rxDecode_success_effect i m s⟩

theorem mem_rxDecodeReads {i : Inst} {s : State} {x : Access} (h : x ∈ rxDecodeReads i s) :
    ∃ r, x = readOf s r := by
  unfold rxDecodeReads fifoAccesses at h
  split_ifs at h
  · exact ⟨_, List.mem_singleton.mp h⟩
  · simp only [List.mem_cons, List.not_mem_nil, or_false] at h
    rcases h with rfl | rfl | rfl | rfl | rfl <;> exact ⟨_, rfl⟩

/-! ## `RX_RELEASE` and the receive handler (R88, R159) -/

/-- 0x20 written to RF0R, `rxHeld` cleared, status OK. -/
def releaseEntry (i : Inst) (s : State) : State :=
  writeStatus i .ok (setRxHeld i false (regWrite (.can i .rf0r) 0x00000020#32 s))

section
variable (i : Inst) (s : State)

/-- The `RX_DECODE` line sets no port (R87). -/
theorem runLine_rxDecode : runLine (.rxDecode i) s = exec (.rxDecode i) s := rfl

/-- The `RX_RELEASE` line sets no port (R87). -/
theorem runLine_rxRelease : runLine (.rxRelease i) s = exec (.rxRelease i) s := rfl

theorem exec_rxRelease_eq : exec (.rxRelease i) s = .next (releaseEntry i s) := rfl

theorem releaseEntry_effect :
    Effect i [.can i .rf0r] [writeOf s (.can i .rf0r) 0x00000020#32]
      { internal s i with rxHeld := false, status := 0x00#8 } s (releaseEntry i s) := by
  have h := Effect.status .ok ((regWrite_can_effect i .rf0r 0x00000020#32 s).trans (setRxHeld_effect i false _))
  rw [(regWrite_can_effect i .rf0r 0x00000020#32 s).own] at h
  exact h

theorem releaseEntry_image :
    (releaseEntry i s).image (.can i .rf0r) = rf0rAfterWrite (s.image (.can i .rf0r)) 0x00000020#32 := by
  simp [releaseEntry, State.image, Controller.image, Controller.store]

/-- The release write leaves FULL0 and FOVR0 (R36, R159). -/
theorem rf0rAfterWrite_release_flags (old : Word) :
    (rf0rAfterWrite old 0x00000020#32).extractLsb' 3 2 = old.extractLsb' 3 2 := by
  rw [rf0rAfterWrite_release_fields]
  exact (BitVec.extractLsb'_append_eq_of_le (by decide)).trans
    ((BitVec.extractLsb'_append_eq_of_le (by decide)).trans BitVec.extractLsb'_append_eq_right)

variable {i s}

/-- The handler with an empty FIFO ends after the decode (R88). -/
theorem pseudoReceive_of_empty (h : (s.image (.can i .rf0r)).extractLsb' 0 2 = 0#2) :
    ∃ t, pseudoReceive i s = .next t ∧ Faulted i .rxEmpty [readOf s (.can i .rf0r)] s t := by
  obtain ⟨t, ht, he⟩ := exec_rxDecode_effect i s
  have hstatus : (t.ctl i).status = StatusCode.rxEmpty.code :=
    (congrArg Internal.status he.own).trans ((rxDecodeResult_status_eq_rxEmpty_iff _).mpr h)
  rw [rxDecodeReads, if_pos h, rxDecodeResult_of_empty _ h] at he
  refine ⟨t, ?_, he⟩
  rw [pseudoReceive, runLine_rxDecode, ht, andThen, if_pos hstatus]

/-- The handler with a pending entry decodes it and releases it, whatever its length (R88, R160). -/
theorem pseudoReceive_of_pending (h : (s.image (.can i .rf0r)).extractLsb' 0 2 ≠ 0#2) :
    ∃ t, pseudoReceive i s = .next t ∧
      Effect i [.can i .rf0r] (fifoAccesses i s ++ [writeOf s (.can i .rf0r) 0x00000020#32])
        { rxDecodeResult i s (internal s i) with rxHeld := false, status := 0x00#8 } s t := by
  obtain ⟨t, ht, he⟩ := exec_rxDecode_effect i s
  have hstatus : (t.ctl i).status ≠ StatusCode.rxEmpty.code := fun hs =>
    h ((rxDecodeResult_status_eq_rxEmpty_iff _).mp ((congrArg Internal.status he.own).symm.trans hs))
  have hrelease := releaseEntry_effect i t
  rw [he.own, writeOf_of_cfg he.outside.cfg] at hrelease
  rw [rxDecodeReads, if_neg h] at he
  refine ⟨releaseEntry i t, ?_, he.trans hrelease⟩
  rw [pseudoReceive, runLine_rxDecode, ht, andThen, if_neg hstatus, runLine_rxRelease, exec_rxRelease_eq]

end

/-! ## Sending and receiving (R88, R143) -/

/-- The `TX_LOAD` line of a valid Message, with a free mailbox, loads it (R87, R146). -/
theorem runLine_txLoad_of_valid {i : Inst} {m : Message} {s : State} (hm : m.valid = true)
    (hfree : (s.ctl i).mb0Empty = true) :
    ∃ t, runLine (.txLoad i m.identifierFormat m.identifier m.frameType m.length m.payload.toList) s = .next t ∧
      (t.ctl i).txLoaded = true ∧
      t.image (.can i .ti0r) = (encodeMsg m).ti ∧ t.image (.can i .tdt0r) = (encodeMsg m).tdt ∧
      t.image (.can i .tdl0r) = (encodeMsg m).tdl ∧ t.image (.can i .tdh0r) = (encodeMsg m).tdh := by
  have hpad : padPayload m.payload.toList = m.payload := padPayload_eq (by simp)
  rw [runLine, asmPorts, asmInstr, hpad]
  exact ⟨_, exec_txLoad_of_valid i (s.withPorts { s.ports with argMsg := m }) hm (by simpa using hfree),
    congrArg Internal.txLoaded (loadMessage_effect i m _).own, loadMessage_images i m _⟩

/-- `send` of a valid Message into a free mailbox leaves its words there, TXRQ set (R146, R150). -/
theorem pseudoSend_of_valid {i : Inst} {m : Message} {s : State} (hm : m.valid = true)
    (hfree : (s.ctl i).mb0Empty = true) :
    ∃ t, pseudoSend i m s = .next t ∧ (t.ctl i).txLoaded = false ∧
      t.image (.can i .ti0r) = (encodeMsg m).ti ||| 1#32 ∧ t.image (.can i .tdt0r) = (encodeMsg m).tdt ∧
      t.image (.can i .tdl0r) = (encodeMsg m).tdl ∧ t.image (.can i .tdh0r) = (encodeMsg m).tdh := by
  obtain ⟨t, ht, hloaded, hti, htdt, htdl, htdh⟩ := runLine_txLoad_of_valid hm hfree
  have he := requestMailbox_effect i t
  refine ⟨requestMailbox i t, ?_, congrArg Internal.txLoaded he.own, ?_, ?_, ?_, ?_⟩
  · rw [pseudoSend, ht]
    exact exec_txRequest_of_loaded i t hloaded
  · rw [requestMailbox_image, hti]
  · rw [he.images _ (by simp), htdt]
  · rw [he.images _ (by simp), htdl]
  · rw [he.images _ (by simp), htdh]

/-- TXRQ is bit 0, so setting it leaves bits 31:1 (R30). -/
theorem extract_or_txrq (x : Word) : (x ||| 1#32).extractLsb' 1 31 = x.extractLsb' 1 31 := by
  rw [BitVec.extractLsb'_or, show (1#32).extractLsb' 1 31 = 0#31 by decide, BitVec.or_zero]

section
variable (i : Inst) (p : PeripheralInputs) (s : State)

/-- The FIFO entry is what the peripheral shows (R38). -/
theorem fifoEntry_showPeripheral :
    fifoEntry i (showPeripheral i p s) = decodeEntry p.ri0r p.rdt0r p.rdl0r p.rdh0r := by
  simp [fifoEntry, State.image, Controller.image]

/-- The pending count is what the peripheral shows (R38). -/
theorem fmp0_showPeripheral :
    ((showPeripheral i p s).image (.can i .rf0r)).extractLsb' 0 2 = p.fmp0 := by
  simp only [State.image, Controller.image, showPeripheral_ctl]
  exact (rf0rShown_bits _ p).1

/-- The handler delivers a Message that the peripheral shows (R155, R159). -/
theorem pseudoReceive_of_shown (h : p.fmp0 ≠ 0#2) {m : Message}
    (hm : decodeEntry p.ri0r p.rdt0r p.rdl0r p.rdh0r = .ok m) :
    ∃ t, pseudoReceive i (showPeripheral i p s) = .next t ∧ (t.ctl i).pendingRx = some m ∧
      (t.ctl i).status = 0x00#8 := by
  have hp : ((showPeripheral i p s).image (.can i .rf0r)).extractLsb' 0 2 ≠ 0#2 := by rwa [fmp0_showPeripheral]
  obtain ⟨t, ht, he⟩ := pseudoReceive_of_pending hp
  rw [rxDecodeResult_of_ok _ hp ((fifoEntry_showPeripheral i p s).trans hm)] at he
  exact ⟨t, ht, congrArg Internal.pendingRx he.own, congrArg Internal.status he.own⟩

end

end Sys2Proof.Machine

/-! ## The obligations -/

namespace Sys2Proof.FrameProofs

open Sys2Proof.Machine Sys2Proof.Safety

/-- Settles O28: the entry decodes to the Message with the entry's own bytes, which over the register path are the
Message's, and over a bus are so up to the length. -/
theorem codecRoundTripsEveryValidMessage : Obligations.CodecRoundTripsEveryValidMessage := by
  intro m ri rdt hm hri hrdt
  refine ⟨?_, fun rdl rdh hbytes => ⟨_, decodeEntry_of_encoded hm hri hrdt, rfl, rfl, rfl, rfl, hbytes⟩⟩
  rw [decodeEntry_of_encoded hm hri hrdt, encodeMsg, unpack_pack]

/-- Settles O24, by the fields each format encodes. -/
theorem identifierAndFormatArePreserved : Obligations.IdentifierAndFormatArePreserved := by
  intro id fmt type w hfits hstd hext
  cases fmt with
  | standard =>
    obtain ⟨hid, hflags⟩ := hstd rfl
    exact decodeIdWord_of_encoded_standard (Nat.lt_succ_of_le (hfits rfl)) hid hflags
  | extended => exact decodeIdWord_of_encoded_extended (hext rfl)

/-- Settles O26: the identifier test, then the length test, which together make up validity. -/
theorem validationReportsFirstFailingCheck : Obligations.ValidationReportsFirstFailingCheck := by
  intro m
  rw [validateMsg_eq, Message.valid_iff]
  cases hid : m.identifierFits with
  | false => simp
  | true =>
    by_cases hlen : m.length.toNat > 8
    · simp [hlen]
    · simp [hlen, Nat.le_of_not_lt hlen]

/-- Settles O27: the DLC decides, and what is decoded is valid. -/
theorem decodedMessagesAreValid : Obligations.DecodedMessagesAreValid := by
  intro ri rdt rdl rdh
  refine ⟨⟨fun h => ?_, decodeEntry_of_dlc_gt⟩, fun h => ?_⟩
  · by_contra hle
    rw [decodeEntry_of_dlc_le (Nat.le_of_not_lt hle)] at h
    cases h
  · have hd := decodeEntry_of_dlc_le (ri := ri) (rdl := rdl) (rdh := rdh) h
    exact ⟨_, hd, valid_of_decodeEntry_ok hd, dlc_toNat rdt, rfl, rfl⟩

/-- Settles O29: the images and the frame are those of the whole load. -/
theorem txLoadWritesTheMailbox : Obligations.TxLoadWritesTheMailbox := by
  intro i s hm hfree
  obtain ⟨hti, htdt, htdl, htdh⟩ := loadMessage_images i s.ports.argMsg s
  refine ⟨_, exec_txLoad_of_valid i s hm hfree, hti, ?_, htdl, htdh, ?_⟩
  · rw [htdt, encodeMsg, lenWord, BitVec.toNat_setWidth_of_le (by decide)]
  · rw [hti, htdt, htdl, htdh]
    exact loadMessage_effect i s.ports.argMsg s

/-- Settles O30: validation is the first thing the command does. -/
theorem txLoadRejectsInvalidMessages : Obligations.TxLoadRejectsInvalidMessages := by
  intro i s
  obtain ⟨hid, hlen, -⟩ := validationReportsFirstFailingCheck s.ports.argMsg
  exact ⟨fun h => ⟨_, exec_txLoad_of_error i s (hid.mpr h), raiseFault_faulted ..⟩,
    fun hfits h => ⟨_, exec_txLoad_of_error i s (hlen.mpr ⟨hfits, h⟩), raiseFault_faulted ..⟩⟩

/-- Settles O32: the word written is the word read with bit 0 set. -/
theorem txRequestSetsTheRequestBit : Obligations.TxRequestSetsTheRequestBit := by
  intro i s h
  refine ⟨_, exec_txRequest_of_loaded i s h, requestMailbox_image i s, ?_⟩
  rw [requestMailbox_image]
  exact requestMailbox_effect i s

/-- Settles O34: with FMP0 not 0 and a DLC up to 8, the decode is the one that stores the entry. -/
theorem rxDecodeStoresThePendingFrame : Obligations.RxDecodeStoresThePendingFrame := by
  intro i s hp hdlc
  have hd : fifoEntry i s = .ok _ := decodeEntry_of_dlc_le hdlc
  obtain ⟨t, ht, he⟩ := exec_rxDecode_effect i s
  rw [rxDecodeReads, if_neg hp, rxDecodeResult_of_ok _ hp hd] at he
  exact ⟨t, _, ht, rfl, dlc_toNat _, rfl, he⟩

/-- Settles O35: FMP0 decides first, then the DLC. -/
theorem rxDecodeFaultsOnEmptyOrBadLength : Obligations.RxDecodeFaultsOnEmptyOrBadLength := by
  intro i s
  obtain ⟨t, ht, he⟩ := exec_rxDecode_effect i s
  refine ⟨fun h => ⟨t, ht, ?_⟩, fun hp hdlc => ⟨t, ht, ?_⟩⟩
  · rwa [rxDecodeReads, if_pos h, rxDecodeResult_of_empty _ h] at he
  · have hd : fifoEntry i s = .error .rxDlcRange := decodeEntry_of_dlc_gt hdlc
    rwa [rxDecodeReads, if_neg hp, rxDecodeResult_of_error _ hp hd] at he

/-- Settles O36: a decode writes no register, so the second one decodes the same FIFO, which changes nothing more. -/
theorem rxDecodeMayBeRepeated : Obligations.RxDecodeMayBeRepeated := by
  intro i s t h
  obtain ⟨t', ht, he⟩ := exec_rxDecode_effect i s
  cases ht.symm.trans h
  obtain ⟨u, hu, hagain⟩ := exec_rxDecode_effect i t
  rw [rxDecodeResult_of_images _ he.images, he.own, rxDecodeResult_idem, ← he.own] at hagain
  exact ⟨u, _, hu, hagain, fun _ => mem_rxDecodeReads⟩

/-- Settles O37: the application commands and the release leave the slots, and a decode that changes its own has stored
the entry. -/
theorem pendingRxIsWrittenOnlyByRxDecode : Obligations.PendingRxIsWrittenOnlyByRxDecode := by
  intro a s t j h hne
  cases ha : a.isReceive with
  | false =>
    obtain ⟨f, hf, -⟩ := exec_application_edit ha
    obtain ⟨bus, he⟩ := hf s
    cases he.symm.trans h
    exact absurd (ApplicationEdit.apply_pendingRx ..) hne
  | true =>
    cases a with
    | rxRelease i =>
      cases (exec_rxRelease_eq i s).symm.trans h
      exact absurd (pendingRx_kept_of_effect (releaseEntry_effect i s) rfl j) hne
    | rxDecode i =>
      obtain ⟨t', ht, he⟩ := exec_rxDecode_effect i s
      cases ht.symm.trans h
      obtain hkept | ⟨m, hm, hresult⟩ := rxDecodeResult_pendingRx_cases (i := i) (s := s) (internal s i)
      · exact absurd (pendingRx_kept_of_effect he hkept j) hne
      · obtain rfl | rfl := Inst.eq_or_other i j
        · have hown := he.own.trans hresult
          exact ⟨rfl, congrArg Internal.status hown, congrArg Internal.rxHeld hown, m, hm,
            congrArg Internal.pendingRx hown⟩
        · exact absurd (congrArg Internal.pendingRx he.other) hne
    | _ => nomatch ha

/-- Settles O38: the word 0x20 sets RFOM0 and writes 0 to the two flags that a 1 would clear. -/
theorem rxReleaseWritesTheReleaseBit : Obligations.RxReleaseWritesTheReleaseBit := by
  intro i s
  refine ⟨_, exec_rxRelease_eq i s, ?_, ?_, releaseEntry_effect i s⟩
  · rw [releaseEntry_image, rf0rAfterWrite_release_rfom0]
  · rw [releaseEntry_image, rf0rAfterWrite_release_flags]

/-- Settles O40, by whether the FIFO is empty: the handler then ends at the decode, and otherwise releases once. -/
theorem handlerReleasesEachEntryOnce : Obligations.HandlerReleasesEachEntryOnce := by
  intro i s empty
  by_cases h : (s.image (.can i .rf0r)).extractLsb' 0 2 = 0#2
  · have hempty : empty = true := decide_eq_true h
    obtain ⟨t, ht, he⟩ := pseudoReceive_of_empty h
    exact ⟨t, ht, by rw [if_pos hempty]; exact he.bus, by simp [hempty], fun _ => he.own⟩
  · have hempty : empty = false := decide_eq_false h
    obtain ⟨t, ht, he⟩ := pseudoReceive_of_pending h
    exact ⟨t, ht, by rw [if_neg (by simp [hempty])]; exact he.bus, fun _ => congrArg Internal.rxHeld he.own,
      by simp [hempty]⟩

/-- Settles O41: the mailbox holds the Message's words, TXRQ aside, and an entry with those words decodes to it. -/
theorem sentMessagesAreReceivedUnchanged : Obligations.SentMessagesAreReceivedUnchanged := by
  intro i j m s hm hfree
  obtain ⟨t, ht, hloaded, hti, htdt, htdl, htdh⟩ := pseudoSend_of_valid hm hfree
  refine ⟨t, ht, by simp [hti], hloaded, fun p hp hri hrdt hrdl hrdh => pseudoReceive_of_shown j p t hp ?_⟩
  rw [hti, extract_or_txrq] at hri
  rw [htdt] at hrdt
  rw [hrdl, htdl, hrdh, htdh]
  exact (codecRoundTripsEveryValidMessage m _ _ hm hri hrdt).1

end Sys2Proof.FrameProofs
end

section
/-! PROOFS. The obligations about status codes, faults and model faults (60_exceptions.md): the list of codes, that every
fault is precise, and what marks a model fault. -/

/-! ## The status codes (R170) -/

namespace Sys2Proof.Machine

open Sys2Proof.Safety

theorem StatusCode.mem_all (c : StatusCode) : c ∈ StatusCode.all := by cases c <;> decide

/-! ## A command that ends with a fault code (R173) -/

/-- With no model fault, the way of ending that leaves a fault code is the precise fault of that code: a command that is
done leaves a code that is no fault. -/
theorem Ends.faulted_of_status {i : Inst} {s t : State} (h : Ends i s t) (hclean : Clean t) {c : StatusCode}
    (hc : c.isFault = true) (hstatus : (t.ctl i).status = c.code) :
    ∃ made, Faulted i c made s t ∧ ∀ x ∈ made, ∃ r, x = readOf s r := by
  cases h with
  | faulted c' made _ hreads h =>
    obtain rfl : c = c' := StatusCode.code_injective c c' (hstatus.symm.trans (congrArg Internal.status h.own))
    exact ⟨made, h, hreads⟩
  | marked r h => subst h; cases hclean
  | done c' _ _ _ hno hs _ h =>
    have hcode : (t.ctl i).status = c'.code := (congrArg Internal.status h.own).trans hs
    obtain rfl : c = c' := StatusCode.code_injective c c' (hstatus.symm.trans hcode)
    cases hc.symm.trans hno

/-! ## What marks a model fault (R177, R209, R210) -/

section
variable {i : Inst} {s : State}

theorem exec_txLoad_of_busy (hm : s.ports.argMsg.valid = true) (hbusy : (s.ctl i).mb0Empty = false) :
    exec (.txLoad i) s = .next (raiseModelFault .txBusy s) := by
  simp [exec, execTxLoad, argMsg, validateMsg_of_valid hm, mailboxFree, hbusy]

theorem exec_txRequest_of_not_loaded (h : (s.ctl i).txLoaded = false) :
    exec (.txRequest i) s = .next (raiseModelFault .txNotLoaded s) := if_pos h

end

/-- A receive-handler command leaves the mark. -/
theorem exec_receive_modelFault {a : Instr} {s t : State} (ha : a.isReceive = true) (h : exec a s = .next t) :
    t.modelFault = s.modelFault := by
  obtain ⟨f, hf, -⟩ := exec_receive_edit ha
  obtain ⟨bus, he⟩ := hf s
  cases he.symm.trans h
  exact State.mapCtl_modelFault ..

theorem exec_btProgram_modelFault {i : Inst} {s t : State} (h : exec (.btProgram i) s = .next t) :
    t.modelFault = s.modelFault := by
  cases hc : btCalc s.cfg.strictBitTiming s.ports.argClock.toNat s.ports.argRate.toNat with
  | error code =>
    cases (exec_btProgram_of_error hc i).symm.trans h
    exact (raiseFault_faulted i code s).outside.modelFault
  | ok r =>
    cases (exec_btProgram_of_ok hc i).symm.trans h
    exact (rewriteBtr_effect ..).outside.modelFault

theorem exec_setTestMode_modelFault {i : Inst} {s t : State} (h : exec (.setTestMode i) s = .next t) :
    t.modelFault = s.modelFault := by
  cases (exec_setTestMode_eq i s).symm.trans h
  exact (rewriteBtr_effect ..).outside.modelFault

theorem exec_fltInstall_modelFault {i : Inst} {s t : State} (h : exec (.fltInstall i) s = .next t) :
    t.modelFault = s.modelFault := by
  by_cases hcount : (s.ctl i).filterCount < 14
  · by_cases hid : filterIdInvalid (argId s) (argFmt s) = true
    · cases (exec_fltInstall_of_invalid hcount hid).symm.trans h
      exact (raiseFault_faulted i .fltInvalidId s).outside.modelFault
    · cases (exec_fltInstall_of_valid hcount hid).symm.trans h
      exact (installBank_effect ..).outside.modelFault
  · cases (exec_fltInstall_of_saturated (Nat.le_of_not_lt hcount)).symm.trans h
    exact (writeStatus_effect i .noopSaturated s).outside.modelFault

theorem exec_txLoad_modelFault {i : Inst} {s t : State} (h : exec (.txLoad i) s = .next t) :
    t.modelFault = s.modelFault ∨
      s.ports.argMsg.valid = true ∧ (s.ctl i).mb0Empty = false ∧ t.modelFault = some .txBusy := by
  cases hv : validateMsg s.ports.argMsg with
  | error code =>
    cases (exec_txLoad_of_error i s hv).symm.trans h
    exact .inl (raiseFault_faulted i code s).outside.modelFault
  | ok u =>
    have hm : s.ports.argMsg.valid = true := valid_of_validateMsg_ok hv
    cases hfree : (s.ctl i).mb0Empty with
    | true =>
      cases (exec_txLoad_of_valid i s hm hfree).symm.trans h
      exact .inl (loadMessage_effect i _ s).outside.modelFault
    | false =>
      cases (exec_txLoad_of_busy hm hfree).symm.trans h
      exact .inr ⟨hm, rfl, rfl⟩

theorem exec_txRequest_modelFault {i : Inst} {s t : State} (h : exec (.txRequest i) s = .next t) :
    t.modelFault = s.modelFault ∨ (s.ctl i).txLoaded = false ∧ t.modelFault = some .txNotLoaded := by
  cases hl : (s.ctl i).txLoaded with
  | true =>
    cases (exec_txRequest_of_loaded i s hl).symm.trans h
    exact .inl (requestMailbox_effect i s).outside.modelFault
  | false =>
    cases (exec_txRequest_of_not_loaded hl).symm.trans h
    exact .inr ⟨rfl, rfl⟩

end Sys2Proof.Machine

/-! ## The obligations -/

namespace Sys2Proof.ExceptionProofs

open Sys2Proof.Machine Sys2Proof.Safety

/-- Settles O46, by the three ways a command ends. -/
theorem faultsArePrecise : Obligations.FaultsArePrecise :=
  fun _ _ _ _ h hclean hc hstatus => (ends_of_exec h).faulted_of_status hclean hc hstatus

/-- Settles O50: `TX_LOAD` and `TX_REQUEST` mark a model fault where their check fails, and no other command touches the
mark. -/
theorem modelFaultsAriseOnlyAsListed : Obligations.ModelFaultsAriseOnlyAsListed := by
  intro a s t h hne
  cases a with
  | txLoad i => exact .inl ⟨i, rfl, (exec_txLoad_modelFault h).resolve_left hne⟩
  | txRequest i => exact .inr ⟨i, rfl, (exec_txRequest_modelFault h).resolve_left hne⟩
  | btProgram i => exact absurd (exec_btProgram_modelFault h) hne
  | setTestMode i => exact absurd (exec_setTestMode_modelFault h) hne
  | fltInstall i => exact absurd (exec_fltInstall_modelFault h) hne
  | rxDecode i => exact absurd (exec_receive_modelFault rfl h) hne
  | rxRelease i => exact absurd (exec_receive_modelFault rfl h) hne

/-- Settles O44: the table is evaluated, and every constructor stands in it. -/
theorem statusCodesAreNumberedAsListed : Obligations.StatusCodesAreNumberedAsListed :=
  ⟨by decide, StatusCode.mem_all⟩

end Sys2Proof.ExceptionProofs
end

section
/-! PROOFS. The obligations about reset and hazards (70_reset_and_hazards.md): no result depends on an unspecified value, the
values reset gives, the two model checks, and that every command completes. -/

/-! ## What the spec specifies in a state (R201, R203) -/

namespace Sys2Proof.Machine

open Sys2Proof.Safety

/-- The registers whose values the spec specifies together. -/
inductive Part where
  /-- Specified in every state: a register with a reset value. -/
  | always
  /-- Mailbox 0 of one instance. -/
  | mailbox (i : Inst)
  /-- The FIFO entry of one instance. -/
  | fifo (i : Inst)
  /-- One filter bank. -/
  | bank (b : Fin 28)

/-- The part a register belongs to. -/
def Reg.part : Reg → Part
  | .can _ .rf0r | .can _ .btr => .always
  | .can i .ti0r | .can i .tdt0r | .can i .tdl0r | .can i .tdh0r => .mailbox i
  | .can i .ri0r | .can i .rdt0r | .can i .rdl0r | .can i .rdh0r => .fifo i
  | .flt .fmr | .flt .fm1r | .flt .fs1r | .flt .ffa1r | .flt .fa1r => .always
  | .flt (.r1 b) | .flt (.r2 b) => .bank b

/-- The state says that the spec specifies the part: the mailbox while loaded, the FIFO entry while FMP0 > 0, a bank while
installed (R203). -/
def Part.SpecifiedIn (s : State) : Part → Prop
  | .always => True
  | .mailbox i => (s.ctl i).txLoaded = true
  | .fifo i => (s.image (.can i .rf0r)).extractLsb' 0 2 ≠ 0#2
  | .bank b => Installed s b

/-- The registers of a part. -/
def Part.words : Part → List Reg
  | .always =>
    [.can .can1 .rf0r, .can .can1 .btr, .can .can2 .rf0r, .can .can2 .btr, .flt .fmr, .flt .fm1r, .flt .fs1r, .flt .ffa1r,
      .flt .fa1r]
  | .mailbox i => [.can i .ti0r, .can i .tdt0r, .can i .tdl0r, .can i .tdh0r]
  | .fifo i => [.can i .ri0r, .can i .rdt0r, .can i .rdl0r, .can i .rdh0r]
  | .bank b => [.flt (.r1 b), .flt (.r2 b)]

theorem Reg.mem_words_of_part {r : Reg} {p : Part} (h : r.part = p) : r ∈ p.words := by
  subst h
  rcases r with ⟨i, q⟩ | q
  · cases i <;> cases q <;> simp [Reg.part, Part.words]
  · cases q <;> simp [Reg.part, Part.words]

end Sys2Proof.Machine

/-! ## The state a reset gives (R200, R201) -/

namespace Sys2Proof.Machine

open Sys2Proof.Safety

/-- The unspecified values of one instance. -/
def Unspecified.ctl (u : Unspecified) : Inst → ControllerUnspecified
  | .can1 => u.can1
  | .can2 => u.can2

@[simp] theorem applyReset_ctl (u : Unspecified) (s : State) (i : Inst) :
    (applyReset u s).ctl i = Controller.reset (u.ctl i) := by cases i <;> rfl

/-- TXRQ is 0 at reset (R30). -/
@[simp] theorem Controller.reset_txrq (c : ControllerUnspecified) : (Controller.reset c).ti0r.getLsbD 0 = false :=
  BitVec.getLsbD_append.trans rfl

/-- Bits 31:1 of TI0R are the unspecified ones at reset (R30). -/
@[simp] theorem Controller.reset_ti0rHigh (c : ControllerUnspecified) :
    (Controller.reset c).ti0r.extractLsb' 1 31 = c.ti0rHigh :=
  BitVec.extractLsb'_append_eq_left

/-- A register with a reset value has it after every reset (R201). -/
theorem image_applyReset_of_always {r : Reg} (h : r.part = .always) (u v : Unspecified) (s t : State) :
    (applyReset v t).image r = (applyReset u s).image r := by
  rcases r with ⟨i, q⟩ | q
  · cases q with
    | rf0r => cases i <;> rfl
    | btr => cases i <;> rfl
    | _ => cases h
  · cases q with
    | r1 b => cases h
    | r2 b => cases h
    | _ => rfl

/-- After a reset the spec specifies exactly the registers with a reset value (R201). -/
theorem part_of_specifiedIn_applyReset {u : Unspecified} {s : State} {p : Part}
    (hp : p.SpecifiedIn (applyReset u s)) : p = .always := by
  cases p with
  | always => rfl
  | mailbox i => cases i <;> cases hp
  | fifo i => cases i <;> exact absurd (by decide : (0x00000000#32).extractLsb' 0 2 = 0#2) hp
  | bank b => exact absurd hp (not_installed_of_counts_zero (fun i => by cases i <;> rfl) b)

end Sys2Proof.Machine

/-! ## Two more effects -/

namespace Sys2Proof.Machine

open Sys2Proof.Safety

/-- A decode leaves `txLoaded` (R155). -/
theorem rxDecodeResult_txLoaded (i : Inst) (s : State) (n : Internal) :
    (rxDecodeResult i s n).txLoaded = n.txLoaded := by
  unfold rxDecodeResult
  split_ifs
  · rfl
  · cases fifoEntry i s <;> rfl

/-- A decode leaves the cursor (R155). -/
theorem rxDecodeResult_filterCount (i : Inst) (s : State) (n : Internal) :
    (rxDecodeResult i s n).filterCount = n.filterCount := by
  unfold rxDecodeResult
  split_ifs
  · rfl
  · cases fifoEntry i s <;> rfl

/-- What the peripheral's change does, as an effect without an access (R38, R55). -/
theorem showPeripheral_effect (i : Inst) (p : PeripheralInputs) (s : State) :
    Effect i [.can i .ti0r, .can i .rf0r, .can i .ri0r, .can i .rdt0r, .can i .rdl0r, .can i .rdh0r] []
      { internal s i with mb0Empty := p.mb0Empty } s (showPeripheral i p s) where
  own := by simp [internal]
  other := by simp [internal]
  images := showPeripheral_imagesKept i p s
  outside := showPeripheral_outsideKept i p s
  bus := by simp [showPeripheral]

end Sys2Proof.Machine

/-! ## Agreement, by views of the state -/

namespace Sys2Proof.Safety

open Sys2Proof.Machine

/-- `StatesAgree` in the words of `Effect`: `t` shows what `s` shows wherever `s` says that the spec specifies it. -/
structure Agree (s t : State) : Prop where
  internals : ∀ i, internal t i = internal s i
  outside : OutsideKept s t
  bus : t.bus = s.bus
  requested : ∀ i, (t.image (.can i .ti0r)).getLsbD 0 = (s.image (.can i .ti0r)).getLsbD 0
  images : ∀ r : Reg, r.part.SpecifiedIn s → t.image r = s.image r

section
variable {s t : State}

theorem Agree.of_statesAgree (h : StatesAgree s t) : Agree s t := by
  obtain ⟨hcfg, h1, h2, hfmr, hfm1r, hfs1r, hffa1r, hfa1r, hbanks, hmf, hports, hinbox, hbus⟩ := h
  have hctl : ∀ i, ControllersAgree (s.ctl i) (t.ctl i) := fun i => by cases i <;> assumption
  refine ⟨fun i => ?_, ⟨hcfg.symm, hports.symm, hinbox.symm, hmf.symm⟩, hbus.symm, fun i => ?_, ?_⟩
  · obtain ⟨hcount, hstatus, hlatch, hloaded, hheld, hpending, hfree, -⟩ := hctl i
    simp only [internal, hcount, hstatus, hlatch, hloaded, hheld, hpending, hfree]
  · obtain ⟨-, -, -, -, -, -, -, -, -, htxrq, -⟩ := hctl i
    exact htxrq.symm
  · rintro (⟨i, q⟩ | q) hspec
    · obtain ⟨-, -, -, -, -, -, -, hbtr, hrf0r, -, hmailbox, hfifo⟩ := hctl i
      cases q with
      | rf0r => exact hrf0r.symm
      | btr => exact hbtr.symm
      | ti0r => exact (hmailbox hspec).1.symm
      | tdt0r => exact (hmailbox hspec).2.1.symm
      | tdl0r => exact (hmailbox hspec).2.2.1.symm
      | tdh0r => exact (hmailbox hspec).2.2.2.symm
      | ri0r => exact (hfifo hspec).1.symm
      | rdt0r => exact (hfifo hspec).2.1.symm
      | rdl0r => exact (hfifo hspec).2.2.1.symm
      | rdh0r => exact (hfifo hspec).2.2.2.symm
    · cases q with
      | fmr => exact hfmr.symm
      | fm1r => exact hfm1r.symm
      | fs1r => exact hfs1r.symm
      | ffa1r => exact hffa1r.symm
      | fa1r => exact hfa1r.symm
      | r1 b => exact congrArg Bank.r1 (hbanks b hspec).symm
      | r2 b => exact congrArg Bank.r2 (hbanks b hspec).symm

theorem Agree.controllersAgree (h : Agree s t) (i : Inst) : ControllersAgree (s.ctl i) (t.ctl i) := by
  have hi := (h.internals i).symm
  refine ⟨congrArg Internal.filterCount hi, congrArg Internal.status hi, congrArg Internal.faultLatch hi,
    congrArg Internal.txLoaded hi, congrArg Internal.rxHeld hi, congrArg Internal.pendingRx hi,
    congrArg Internal.mb0Empty hi, (h.images (.can i .btr) trivial).symm, (h.images (.can i .rf0r) trivial).symm,
    (h.requested i).symm, fun hl => ?_, fun hp => ?_⟩
  · exact ⟨(h.images (.can i .ti0r) hl).symm, (h.images (.can i .tdt0r) hl).symm, (h.images (.can i .tdl0r) hl).symm,
      (h.images (.can i .tdh0r) hl).symm⟩
  · exact ⟨(h.images (.can i .ri0r) hp).symm, (h.images (.can i .rdt0r) hp).symm, (h.images (.can i .rdl0r) hp).symm,
      (h.images (.can i .rdh0r) hp).symm⟩

theorem Agree.statesAgree (h : Agree s t) : StatesAgree s t :=
  ⟨h.outside.cfg.symm, h.controllersAgree .can1, h.controllersAgree .can2, (h.images (.flt .fmr) trivial).symm,
    (h.images (.flt .fm1r) trivial).symm, (h.images (.flt .fs1r) trivial).symm,
    (h.images (.flt .ffa1r) trivial).symm, (h.images (.flt .fa1r) trivial).symm,
    fun b hb => congrArg₂ Bank.mk (h.images (.flt (.r1 b)) hb).symm (h.images (.flt (.r2 b)) hb).symm,
    h.outside.modelFault.symm, h.outside.ports.symm, h.outside.inbox.symm, h.bus.symm⟩

/-! ### What agreeing states have in common -/

theorem Agree.readOf (h : Agree s t) {r : Reg} (hr : r.part.SpecifiedIn s) : readOf t r = readOf s r := by
  rw [Safety.readOf, Safety.readOf, addrOf, addrOf, h.outside.cfg, h.images r hr]

theorem Agree.writeOf (h : Agree s t) (r : Reg) (v : Word) : writeOf t r v = writeOf s r v :=
  writeOf_of_cfg h.outside.cfg r v

theorem Agree.count (h : Agree s t) (i : Inst) : (t.ctl i).filterCount = (s.ctl i).filterCount :=
  congrArg Internal.filterCount (h.internals i)

theorem Agree.loaded (h : Agree s t) (i : Inst) : (t.ctl i).txLoaded = (s.ctl i).txLoaded :=
  congrArg Internal.txLoaded (h.internals i)

theorem Agree.free (h : Agree s t) (i : Inst) : (t.ctl i).mb0Empty = (s.ctl i).mb0Empty :=
  congrArg Internal.mb0Empty (h.internals i)

theorem Agree.pending (h : Agree s t) (i : Inst) : (t.ctl i).pendingRx = (s.ctl i).pendingRx :=
  congrArg Internal.pendingRx (h.internals i)

/-- The install of R124 makes the same accesses in agreeing states: what it reads has a reset value. -/
theorem Agree.bankAccesses (h : Agree s t) (k : Fin 28) (w : Word) : bankAccesses k w t = bankAccesses k w s := by
  simp only [Machine.bankAccesses, h.writeOf, addrOf, h.outside.cfg, h.readOf (r := .flt .fmr) trivial,
    h.readOf (r := .flt .fs1r) trivial, h.readOf (r := .flt .fm1r) trivial, h.readOf (r := .flt .ffa1r) trivial,
    h.readOf (r := .flt .fa1r) trivial, h.images (.flt .fmr) trivial, h.images (.flt .fs1r) trivial,
    h.images (.flt .fm1r) trivial, h.images (.flt .ffa1r) trivial, h.images (.flt .fa1r) trivial]

/-- A decode makes the same reads in agreeing states: it reads the entry only while FMP0 > 0 (R155). -/
theorem Agree.rxDecodeReads (h : Agree s t) (i : Inst) : rxDecodeReads i t = rxDecodeReads i s := by
  have hrf : Safety.readOf t (.can i .rf0r) = Safety.readOf s (.can i .rf0r) := h.readOf trivial
  simp only [Machine.rxDecodeReads, h.images (.can i .rf0r) trivial]
  split_ifs with hp
  · rw [hrf]
  · rw [fifoAccesses, fifoAccesses, hrf, h.readOf (r := .can i .ri0r) hp, h.readOf (r := .can i .rdt0r) hp,
      h.readOf (r := .can i .rdl0r) hp, h.readOf (r := .can i .rdh0r) hp]

/-- A decode has the same result in agreeing states. -/
theorem Agree.rxDecodeResult (h : Agree s t) (i : Inst) (n : Internal) :
    rxDecodeResult i t n = rxDecodeResult i s n := by
  simp only [Machine.rxDecodeResult, h.images (.can i .rf0r) trivial]
  split_ifs with hp
  · rfl
  · simp only [fifoEntry, h.images (.can i .ri0r) hp, h.images (.can i .rdt0r) hp, h.images (.can i .rdl0r) hp,
      h.images (.can i .rdh0r) hp]

end

/-! ## Agreement after the same effect -/

section
variable {i : Inst} {w : List Reg} {m m' : List Access} {n n' : Internal} {s t u v : State}

/-- Every register equal in `s` and `t` is equal in `u` and `v`. -/
def EqualImagesKept (s t u v : State) : Prop :=
  ∀ r, t.image r = s.image r → v.image r = u.image r

/-- An effect that writes each register it writes with one value in both states keeps equal registers equal. -/
theorem equalImagesKept_of_effects (hu : Effect i w m n s u) (hv : Effect i w m' n' t v)
    (hw : ∀ r ∈ w, v.image r = u.image r) : EqualImagesKept s t u v := by
  intro r hr
  by_cases h : r ∈ w
  · exact hw r h
  · rw [hv.images r h, hu.images r h, hr]

/-- The same effect on agreeing states: they agree again if equal registers stay equal and each part that becomes
specified is equal in both. -/
theorem Agree.of_effects (h : Agree s t) (hu : Effect i w m n s u) (hv : Effect i w m' n' t v) (hm : m' = m)
    (hn : n' = n) (hkept : EqualImagesKept s t u v)
    (hrequested : ∀ j, (v.image (.can j .ti0r)).getLsbD 0 = (u.image (.can j .ti0r)).getLsbD 0)
    (hpart : ∀ p : Part, p.SpecifiedIn u → p.SpecifiedIn s ∨ ∀ r : Reg, r.part = p → v.image r = u.image r) :
    Agree u v where
  internals j := by
    obtain rfl | rfl := Inst.eq_or_other i j
    · rw [hv.own, hu.own, hn]
    · rw [hv.other, hu.other, h.internals]
  outside := ⟨by rw [hv.outside.cfg, hu.outside.cfg, h.outside.cfg],
    by rw [hv.outside.ports, hu.outside.ports, h.outside.ports],
    by rw [hv.outside.inbox, hu.outside.inbox, h.outside.inbox],
    by rw [hv.outside.modelFault, hu.outside.modelFault, h.outside.modelFault]⟩
  bus := by rw [hv.bus, hu.bus, h.bus, hm]
  requested := hrequested
  images r hr := (hpart r.part hr).elim (fun hs => hkept r (h.images r hs)) (fun he => he r rfl)

/-- The banks installed after an effect that keeps the cursor are those installed before. -/
theorem installed_of_effect (hu : Effect i w m n s u) (hcount : n.filterCount = (s.ctl i).filterCount) {b : Fin 28}
    (hb : Installed u b) : Installed s b := by
  have hown : (u.ctl i).filterCount = (s.ctl i).filterCount := (congrArg Internal.filterCount hu.own).trans hcount
  have hother : (u.ctl i.other).filterCount = (s.ctl i.other).filterCount := congrArg Internal.filterCount hu.other
  simpa only [installed_iff _ i, InstalledBy, hu.outside.cfg, hown, hother] using hb

/-- The parts an effect specifies anew, given what it does to the three of its own instance. -/
theorem specifiedIn_of_effect {P : Part → Prop} (hu : Effect i w m n s u)
    (hload : n.txLoaded = true → (s.ctl i).txLoaded = true ∨ P (.mailbox i))
    (hfmp : ∀ j, (u.image (.can j .rf0r)).extractLsb' 0 2 ≠ 0#2 →
      (s.image (.can j .rf0r)).extractLsb' 0 2 ≠ 0#2 ∨ P (.fifo j))
    (hbank : ∀ b, Installed u b → Installed s b ∨ P (.bank b)) (p : Part) (hp : p.SpecifiedIn u) :
    p.SpecifiedIn s ∨ P p := by
  cases p with
  | always => exact .inl trivial
  | mailbox j =>
    obtain rfl | rfl := Inst.eq_or_other i j
    · exact hload ((congrArg Internal.txLoaded hu.own).symm.trans hp)
    · exact .inl ((congrArg Internal.txLoaded hu.other).symm.trans hp)
  | fifo j => exact hfmp j hp
  | bank b => exact hbank b hp

end

/-! ## Outcomes in step -/

/-- The outcomes `x` from `s` and `y` from `t` agree, and equal registers stay equal if both are next states. -/
def Lockstep (s t : State) (x y : Result) : Prop :=
  OutcomesAgree x y ∧ ∀ u v, x = .next u → y = .next v → EqualImagesKept s t u v

section
variable {i : Inst} {w : List Reg} {m m' : List Access} {n n' : Internal} {s t u v : State}

theorem Agree.lockstep_next (h : Agree u v) (hkept : EqualImagesKept s t u v) :
    Lockstep s t (.next u) (.next v) :=
  ⟨h.statesAgree, fun _ _ hu hv => by cases hu; cases hv; exact hkept⟩

theorem lockstep_fault (s t : State) (f : Fault) : Lockstep s t (.fault f) (.fault f) :=
  ⟨rfl, fun _ _ hu => nomatch hu⟩

theorem lockstep_refused (s t : State) (r : Refusal) : Lockstep s t (.refused r) (.refused r) :=
  ⟨rfl, fun _ _ hu => nomatch hu⟩

/-- A command with the same effect on agreeing states, which writes the same values, stays in step if it writes whatever
becomes specified. -/
theorem Agree.lockstep_of_effects (h : Agree s t) (hu : Effect i w m n s u) (hv : Effect i w m' n' t v) (hm : m' = m)
    (hn : n' = n) (hw : ∀ r ∈ w, v.image r = u.image r)
    (hload : n.txLoaded = true → (s.ctl i).txLoaded = true ∨ ∀ r : Reg, r.part = .mailbox i → r ∈ w)
    (hfmp : ∀ j, (u.image (.can j .rf0r)).extractLsb' 0 2 = (s.image (.can j .rf0r)).extractLsb' 0 2)
    (hbank : ∀ b, Installed u b → Installed s b ∨ ∀ r : Reg, r.part = .bank b → r ∈ w) :
    Lockstep s t (.next u) (.next v) := by
  have hkept := equalImagesKept_of_effects hu hv hw
  refine (h.of_effects hu hv hm hn hkept (fun j => ?_) fun p hp => ?_).lockstep_next hkept
  · by_cases hj : Reg.can j .ti0r ∈ w
    · rw [hw _ hj]
    · rw [hv.images _ hj, hu.images _ hj, h.requested]
  · exact (specifiedIn_of_effect (P := fun p => ∀ r : Reg, r.part = p → r ∈ w) hu hload
      (fun j hj => .inl (hfmp j ▸ hj)) hbank p hp).imp_right fun hwritten r hr => hw r (hwritten r hr)

/-- A command that loads no mailbox, leaves RF0R and installs no bank stays in step. -/
theorem Agree.lockstep_of_plain_effects (h : Agree s t) (hu : Effect i w m n s u) (hv : Effect i w m' n' t v)
    (hm : m' = m) (hn : n' = n) (hw : ∀ r ∈ w, v.image r = u.image r)
    (hload : n.txLoaded = true → (s.ctl i).txLoaded = true) (hrf0r : ∀ j, Reg.can j .rf0r ∉ w)
    (hcount : n.filterCount = (s.ctl i).filterCount) : Lockstep s t (.next u) (.next v) :=
  h.lockstep_of_effects hu hv hm hn hw (fun hl => .inl (hload hl)) (fun j => by rw [hu.images _ (hrf0r j)])
    fun _ hb => .inl (installed_of_effect hu hcount hb)

end

/-! ## Each command (R82) -/

section
variable {s t : State} (h : Agree s t) (i : Inst)
include h

theorem Agree.lockstep_raiseFault (c : StatusCode) :
    Lockstep s t (.next (raiseFault i c s)) (.next (raiseFault i c t)) :=
  h.lockstep_of_plain_effects (raiseFault_faulted i c s) (raiseFault_faulted i c t) rfl (by rw [h.internals])
    (by simp) id (by simp) rfl

theorem Agree.lockstep_writeStatus (c : StatusCode) :
    Lockstep s t (.next (writeStatus i c s)) (.next (writeStatus i c t)) :=
  h.lockstep_of_plain_effects (writeStatus_effect i c s) (writeStatus_effect i c t) rfl (by rw [h.internals])
    (by simp) id (by simp) rfl

theorem Agree.lockstep_rewriteBtr (c : StatusCode) (x : Word) :
    Lockstep s t (.next (rewriteBtr i c x s)) (.next (rewriteBtr i c x t)) :=
  h.lockstep_of_plain_effects (rewriteBtr_effect i c x s) (rewriteBtr_effect i c x t)
    (by rw [h.readOf (r := .can i .btr) trivial, h.writeOf]) (by rw [h.internals]) (by simp) id (by simp) rfl

theorem Agree.lockstep_loadMessage (x : Message) :
    Lockstep s t (.next (loadMessage i x s)) (.next (loadMessage i x t)) := by
  have hu := loadMessage_effect i x s
  obtain ⟨hti, htdt, htdl, htdh⟩ := loadMessage_images i x s
  obtain ⟨hti', htdt', htdl', htdh'⟩ := loadMessage_images i x t
  refine h.lockstep_of_effects hu (loadMessage_effect i x t) (by simp only [mailboxAccesses, h.writeOf])
    (by rw [h.internals]) ?_ (fun _ => .inr fun _ => Reg.mem_words_of_part) (fun j => by rw [hu.images _ (by simp)])
    fun b hb => .inl (installed_of_effect hu rfl hb)
  simp [hti, htdt, htdl, htdh, hti', htdt', htdl', htdh']

theorem Agree.lockstep_requestMailbox (hl : (s.ctl i).txLoaded = true) :
    Lockstep s t (.next (requestMailbox i s)) (.next (requestMailbox i t)) := by
  have hti : t.image (.can i .ti0r) = s.image (.can i .ti0r) := h.images (.can i .ti0r) hl
  refine h.lockstep_of_plain_effects (requestMailbox_effect i s) (requestMailbox_effect i t) ?_
    (by rw [h.internals]) ?_ (fun _ => hl) (by simp) rfl
  · rw [h.readOf (r := .can i .ti0r) hl, h.writeOf, hti]
  · simp [requestMailbox_image, hti]

theorem Agree.lockstep_releaseEntry : Lockstep s t (.next (releaseEntry i s)) (.next (releaseEntry i t)) := by
  have hu := releaseEntry_effect i s
  refine h.lockstep_of_effects hu (releaseEntry_effect i t) (by rw [h.writeOf]) (by rw [h.internals]) ?_ .inl ?_
    fun b hb => .inl (installed_of_effect hu rfl hb)
  · simp [releaseEntry_image, h.images (.can i .rf0r) trivial]
  · intro j
    obtain rfl | rfl := Inst.eq_or_other i j
    · rw [releaseEntry_image, rf0rAfterWrite_release_fmp0]
    · rw [hu.images _ (by simp)]

theorem Agree.lockstep_installBank {k : Fin 28} (hk : k.val = s.cfg.bankBase i + (s.ctl i).filterCount) (x : Word) :
    Lockstep s t (.next (installBank i k x s)) (.next (installBank i k x t)) := by
  have hu := installBank_effect i k x s
  refine h.lockstep_of_effects hu (installBank_effect i k x t) (h.bankAccesses k x) (by rw [h.internals, h.count])
    ?_ .inl (fun j => by rw [hu.images _ (by simp)]) fun b hb => ?_
  · obtain ⟨hm, hs, hf, ha, h1, h2, hfmr⟩ := programBank_images k x s
    obtain ⟨hm', hs', hf', ha', h1', h2', hfmr'⟩ := programBank_images k x t
    simp [installBank_image, hm, hs, hf, ha, h1, h2, hfmr, hm', hs', hf', ha', h1', h2', hfmr',
      h.images (.flt .fmr) trivial, h.images (.flt .fm1r) trivial, h.images (.flt .fs1r) trivial,
      h.images (.flt .ffa1r) trivial, h.images (.flt .fa1r) trivial]
  · refine ((installed_installBank hk x b).mp hb).imp_right fun hbk r hr => ?_
    subst hbk
    have hmem := Reg.mem_words_of_part hr
    simp only [Part.words, List.mem_cons, List.not_mem_nil, or_false] at hmem ⊢
    tauto

end

/-! ## What is no effect of one command -/

/-- Ports, inbox and the model-fault mark show in no register. -/
theorem image_withOutside (s : State) (p : Ports) (l : List Event) (m : Option ModelFault) (r : Reg) :
    State.image { s with ports := p, inbox := l, modelFault := m } r = s.image r := by
  rcases r with ⟨_ | _, _⟩ | _ <;> rfl

/-- Ports, inbox and the model-fault mark say nothing of what is specified. -/
theorem specifiedIn_withOutside {s : State} {p : Ports} {l : List Event} {m : Option ModelFault} {q : Part}
    (h : q.SpecifiedIn { s with ports := p, inbox := l, modelFault := m }) : q.SpecifiedIn s := by
  cases q with
  | always => trivial
  | mailbox i => cases i <;> exact h
  | fifo i => cases i <;> exact h
  | bank b => exact h

section
variable {s t : State}

theorem Agree.refl (s : State) : Agree s s :=
  ⟨fun _ => rfl, ⟨rfl, rfl, rfl, rfl⟩, rfl, fun _ => rfl, fun _ _ => rfl⟩

/-- The same values outside the block's own state leave agreement. -/
theorem Agree.withOutside (h : Agree s t) {p p' : Ports} {l l' : List Event} {m m' : Option ModelFault} (hp : p' = p)
    (hl : l' = l) (hm : m' = m) :
    Agree { s with ports := p, inbox := l, modelFault := m } { t with ports := p', inbox := l', modelFault := m' } where
  internals i := by have hi := h.internals i; cases i <;> exact hi
  outside := ⟨h.outside.cfg, hp, hl, hm⟩
  bus := h.bus
  requested i := by simpa only [image_withOutside] using h.requested i
  images r hr := by simpa only [image_withOutside] using h.images r (specifiedIn_withOutside hr)

theorem Agree.lockstep_withOutside (h : Agree s t) {p p' : Ports} {l l' : List Event} {m m' : Option ModelFault}
    (hp : p' = p) (hl : l' = l) (hm : m' = m) :
    Lockstep s t (.next { s with ports := p, inbox := l, modelFault := m })
      (.next { t with ports := p', inbox := l', modelFault := m' }) :=
  (h.withOutside hp hl hm).lockstep_next fun r hr => by rwa [image_withOutside, image_withOutside]

theorem Agree.lockstep_raiseModelFault (h : Agree s t) (r : ModelFault) :
    Lockstep s t (.next (raiseModelFault r s)) (.next (raiseModelFault r t)) :=
  h.lockstep_withOutside h.outside.ports h.outside.inbox rfl

/-! ### Commands in agreeing states -/

/-- Every command stays in step: what it reads is specified where it reads it (R203). -/
theorem Agree.lockstep_exec (h : Agree s t) (hc : configurationOk s.cfg = true) (a : Instr) :
    Lockstep s t (exec a s) (exec a t) := by
  have hports := h.outside.ports
  cases a with
  | btProgram i =>
    have hcalc : btCalc t.cfg.strictBitTiming t.ports.argClock.toNat t.ports.argRate.toNat =
        btCalc s.cfg.strictBitTiming s.ports.argClock.toNat s.ports.argRate.toNat := by rw [h.outside.cfg, hports]
    cases hr : btCalc s.cfg.strictBitTiming s.ports.argClock.toNat s.ports.argRate.toNat with
    | error code =>
      rw [exec_btProgram_of_error hr, exec_btProgram_of_error (hcalc.trans hr)]
      exact h.lockstep_raiseFault i code
    | ok r =>
      rw [exec_btProgram_of_ok hr, exec_btProgram_of_ok (hcalc.trans hr), h.images (.can i .btr) trivial, h.outside.cfg]
      exact h.lockstep_rewriteBtr i _ _
  | setTestMode i =>
    rw [exec_setTestMode_eq, exec_setTestMode_eq, h.images (.can i .btr) trivial, hports]
    exact h.lockstep_rewriteBtr i _ _
  | fltInstall i =>
    have hid : argId t = argId s := congrArg Ports.argId hports
    have hfmt : argFmt t = argFmt s := by rw [argFmt, argFmt, hports]
    by_cases hcount : (s.ctl i).filterCount < 14
    · have hcount' : (t.ctl i).filterCount < 14 := by rwa [h.count]
      by_cases hbad : filterIdInvalid (argId s) (argFmt s) = true
      · rw [exec_fltInstall_of_invalid hcount hbad, exec_fltInstall_of_invalid hcount' (by rwa [hid, hfmt])]
        exact h.lockstep_raiseFault i _
      · have hbank : bankIndex i t = bankIndex i s := by rw [bankIndex, bankIndex, h.outside.cfg, h.count]
        rw [exec_fltInstall_of_valid hcount hbad, exec_fltInstall_of_valid hcount' (by rwa [hid, hfmt]), hbank, hid,
          hfmt]
        exact h.lockstep_installBank i (bankIndex_val hc hcount) _
    · have hfull := Nat.le_of_not_lt hcount
      rw [exec_fltInstall_of_saturated hfull, exec_fltInstall_of_saturated (by rwa [h.count])]
      exact h.lockstep_writeStatus i _
  | txLoad i =>
    cases hv : validateMsg s.ports.argMsg with
    | error code =>
      rw [exec_txLoad_of_error i s hv, exec_txLoad_of_error i t (by rw [hports, hv])]
      exact h.lockstep_raiseFault i code
    | ok _ =>
      have hm := valid_of_validateMsg_ok hv
      have hm' : t.ports.argMsg.valid = true := by rwa [hports]
      cases hfree : (s.ctl i).mb0Empty with
      | true =>
        rw [exec_txLoad_of_valid i s hm hfree, exec_txLoad_of_valid i t hm' ((h.free i).trans hfree), hports]
        exact h.lockstep_loadMessage i _
      | false =>
        rw [exec_txLoad_of_busy hm hfree, exec_txLoad_of_busy hm' ((h.free i).trans hfree)]
        exact h.lockstep_raiseModelFault _
  | txRequest i =>
    cases hl : (s.ctl i).txLoaded with
    | true =>
      rw [exec_txRequest_of_loaded i s hl, exec_txRequest_of_loaded i t ((h.loaded i).trans hl)]
      exact h.lockstep_requestMailbox i hl
    | false =>
      rw [exec_txRequest_of_not_loaded hl, exec_txRequest_of_not_loaded ((h.loaded i).trans hl)]
      exact h.lockstep_raiseModelFault _
  | rxDecode i =>
    obtain ⟨u, hu, hue⟩ := exec_rxDecode_effect i s
    obtain ⟨v, hv, hve⟩ := exec_rxDecode_effect i t
    rw [hu, hv]
    refine h.lockstep_of_plain_effects hue hve (h.rxDecodeReads i) (by rw [h.internals, h.rxDecodeResult]) (by simp) ?_
      (by simp) ?_
    · rw [rxDecodeResult_txLoaded]; exact id
    · rw [rxDecodeResult_filterCount]; rfl
  | rxRelease i =>
    rw [exec_rxRelease_eq, exec_rxRelease_eq]
    exact h.lockstep_releaseEntry i

/-! ### The other events in agreeing states -/

/-- The peripheral's change drives bits of TI0R and RF0R and whole words, with the same values in both states (R55). -/
theorem Agree.showPeripheral_kept (h : Agree s t) (i : Inst) (p : PeripheralInputs) :
    EqualImagesKept s t (showPeripheral i p s) (showPeripheral i p t) := by
  rintro (⟨j, q⟩ | q) hq
  · obtain rfl | rfl := Inst.eq_or_other i j
    · cases q with
      | ti0r =>
        have hti0r : (t.ctl j).ti0r = (s.ctl j).ti0r := hq
        simp [State.image, Controller.image, hti0r]
      | rf0r =>
        have hrf0r : (t.ctl j).rf0r = (s.ctl j).rf0r := h.images (.can j .rf0r) trivial
        simp [State.image, Controller.image, hrf0r]
      | ri0r | rdt0r | rdl0r | rdh0r => simp [State.image, Controller.image]
      | btr | tdt0r | tdl0r | tdh0r => simpa [State.image, Controller.image] using hq
    · simpa [State.image] using hq
  · simpa [State.image] using hq

theorem Agree.lockstep_showPeripheral (h : Agree s t) (i : Inst) (p : PeripheralInputs) :
    Lockstep s t (.next (showPeripheral i p s)) (.next (showPeripheral i p t)) := by
  have hu := showPeripheral_effect i p s
  have hkept := h.showPeripheral_kept i p
  refine (h.of_effects hu (showPeripheral_effect i p t) rfl (by rw [h.internals]) hkept (fun j => ?requested)
    (specifiedIn_of_effect hu .inl (fun j hj => ?fifo) fun b hb =>
      .inl (installed_of_effect hu rfl hb))).lockstep_next hkept
  case requested =>
    obtain rfl | rfl := Inst.eq_or_other i j
    · simp only [State.image, Controller.image, showPeripheral_ctl, getLsbD_append_txrq, if_true]
    · simpa [State.image] using h.requested i.other
  case fifo =>
    obtain rfl | rfl := Inst.eq_or_other i j
    · refine .inr fun r hr => ?_
      have hmem := Reg.mem_words_of_part hr
      simp only [Part.words, List.mem_cons, List.not_mem_nil, or_false] at hmem
      rcases hmem with rfl | rfl | rfl | rfl <;> simp [State.image, Controller.image]
    · exact .inl (by simpa [State.image] using hj)

/-- Resets agree whatever the unspecified values, the input `mb0Empty` apart. -/
theorem Agree.applyReset (h : Agree s t) {u v : Unspecified} (h1 : u.can1.mb0Empty = v.can1.mb0Empty)
    (h2 : u.can2.mb0Empty = v.can2.mb0Empty) : Agree (applyReset u s) (applyReset v t) where
  internals i := by cases i <;> simp [internal, Controller.reset, Unspecified.ctl, h1, h2]
  outside := ⟨h.outside.cfg, h.outside.ports, h.outside.inbox, h.outside.modelFault⟩
  bus := h.bus
  requested i := by simp only [State.image, Controller.image, applyReset_ctl, Controller.reset_txrq]
  images r hr := image_applyReset_of_always (part_of_specifiedIn_applyReset hr) u v s t

theorem Agree.lockstep_applyReset (h : Agree s t) (u : Unspecified) :
    Lockstep s t (.next (Machine.applyReset u s)) (.next (Machine.applyReset u t)) :=
  (h.applyReset rfl rfl).lockstep_next fun r _ => by rcases r with ⟨_ | _, _⟩ | _ <;> rfl

/-- An observation stops for what agreeing states share, and changes nothing otherwise (R27, R54, R58). -/
theorem Agree.lockstep_observe (h : Agree s t) (o : Observable) :
    Lockstep s t (handle (.observe o) s) (handle (.observe o) t) := by
  have hsame : Lockstep s t (.next s) (.next t) := h.lockstep_next fun _ => id
  cases o with
  | pendingRx i =>
    cases hp : (s.ctl i).pendingRx with
    | none =>
      simp only [handle, observe, readPendingRx, h.pending, hp]
      exact lockstep_fault ..
    | some m =>
      simp only [handle, observe, readPendingRx, h.pending, hp]
      exact hsame
  | word a =>
    simp only [handle, observe, memRead, h.outside.cfg]
    cases regAt s.cfg.map a with
    | some r => exact hsame
    | none =>
      cases (foreignAddrs s.cfg.map).contains a with
      | true => exact lockstep_refused ..
      | false => exact lockstep_fault ..
  | filterCount i => exact hsame
  | status i => exact hsame
  | faultLatch i => exact hsame
  | image r => exact hsame

theorem Agree.lockstep_handle (h : Agree s t) (hc : configurationOk s.cfg = true) (e : Event) :
    Lockstep s t (handle e s) (handle e t) := by
  cases e with
  | command x =>
    simp only [handle, runWord]
    cases decode x with
    | ok a => exact h.lockstep_exec hc a
    | error e => exact h.lockstep_raiseFault e.inst _
  | drivePorts p => exact h.lockstep_withOutside rfl h.outside.inbox h.outside.modelFault
  | peripheral i p => exact h.lockstep_showPeripheral i p
  | reset u => exact h.lockstep_applyReset u
  | observe o => exact h.lockstep_observe o

/-- A step takes the same event in agreeing states, or is refused in both. -/
theorem Agree.lockstep_step (h : Agree s t) : Lockstep s t (step s) (step t) := by
  by_cases hc : configurationOk s.cfg = true
  · have hc' : configurationOk t.cfg = true := by rwa [h.outside.cfg]
    cases hi : s.inbox with
    | nil =>
      rw [step_of_empty hc hi, step_of_empty hc' (h.outside.inbox.trans hi)]
      exact h.lockstep_next fun _ => id
    | cons e rest =>
      rw [step_of_event hc hi, step_of_event hc' (h.outside.inbox.trans hi)]
      have hpop := h.withOutside h.outside.ports (rfl : rest = rest) h.outside.modelFault
      obtain ⟨hagree, hkept⟩ := hpop.lockstep_handle hc e
      exact ⟨hagree, fun u v hu hv r hr => hkept u v hu hv r (by rwa [image_withOutside, image_withOutside])⟩
  · rw [(step_eq_badConfiguration_iff s).mpr hc, (step_eq_badConfiguration_iff t).mpr (by rwa [h.outside.cfg])]
    exact lockstep_refused ..

end

/-! ## How a command ends (R171, R214) -/

/-- An effect writes no status but that of its own instance (R42). -/
theorem Effect.other_status {i : Inst} {w : List Reg} {m : List Access} {n : Internal} {s t : State}
    (h : Effect i w m n s t) : (t.ctl i.other).status = (s.ctl i.other).status := congrArg Internal.status h.other

end Sys2Proof.Safety

namespace Sys2Proof.Machine

open Sys2Proof.Safety

/-- Each way a command ends leaves one status code on its own instance, or is a model fault. -/
theorem Ends.one_status {i : Inst} {s t : State} (h : Ends i s t) :
    (t.ctl i.other).status = (s.ctl i.other).status ∧
      ((∃ c : StatusCode, (t.ctl i).status = c.code ∧ t.modelFault = s.modelFault) ∨
        ∃ r : ModelFault, t = { s with modelFault := some r }) := by
  cases h with
  | faulted c _ _ _ h => exact ⟨Effect.other_status h, .inl ⟨c, congrArg Internal.status h.own, h.outside.modelFault⟩⟩
  | marked r h => subst h; exact ⟨by simp, .inr ⟨r, rfl⟩⟩
  | done c _ _ _ _ hs _ h =>
    exact ⟨h.other_status, .inl ⟨c, (congrArg Internal.status h.own).trans hs, h.outside.modelFault⟩⟩

end Sys2Proof.Machine

/-! ## The obligations -/

namespace Sys2Proof.ResetProofs

open Sys2Proof.Machine Sys2Proof.Safety

/-- Settles O55: agreeing states take the same event, and whatever it reads is specified where it is read. -/
theorem unspecifiedValuesNeverReachAResult : Obligations.UnspecifiedValuesNeverReachAResult := by
  intro s t h
  obtain ⟨hagree, hkept⟩ := (Agree.of_statesAgree h).lockstep_step
  exact ⟨hagree, fun u v hu hv r hr => (hkept u v hu hv r hr.symm).symm⟩

/-- Settles O45, by the three ways a command ends. -/
theorem everyCommandCompletesWithOneStatus : Obligations.EveryCommandCompletesWithOneStatus := by
  intro a s
  obtain ⟨t, ht, hends⟩ := exec_ends a s
  exact ⟨t, ht, hends.one_status⟩

/-- Settles O31: the mailbox check of a valid load ends in the model fault. -/
theorem busyMailboxIsAModelFault : Obligations.BusyMailboxIsAModelFault :=
  fun _ _ hm hbusy => exec_txLoad_of_busy hm hbusy

/-- Settles O33: the check of `txLoaded` ends in the model fault. -/
theorem requestWithoutLoadIsAModelFault : Obligations.RequestWithoutLoadIsAModelFault :=
  fun _ _ h => exec_txRequest_of_not_loaded h

/-- Settles O56: a state agrees with itself, and resets agree whatever the unspecified values. -/
theorem resetStatesAgreeWhereSpecified : Obligations.ResetStatesAgreeWhereSpecified :=
  fun s _ _ h1 h2 => ((Agree.refl s).applyReset h1 h2).statesAgree

/-- Settles O52: the step is the reset, and each element is read off it. -/
theorem resetGivesEveryElementItsTableValue : Obligations.ResetGivesEveryElementItsTableValue := by
  intro s u rest hc hi
  refine ⟨_, step_of_event hc hi, fun i => ?_, rfl, rfl, rfl, rfl, rfl, rfl, Controller.reset_ti0rHigh u.can1,
    Controller.reset_ti0rHigh u.can2, rfl, ⟨rfl, rfl, rfl, rfl, rfl, rfl, rfl, rfl⟩, rfl, rfl, rfl, rfl, rfl, rfl, rfl,
    rfl⟩
  have hmode := StateProofs.testModeReadsBackFromBtr.2 i (u.ctl i) _ (applyReset_ctl u { s with inbox := rest } i)
  rw [applyReset_ctl]
  exact ⟨rfl, rfl, rfl, rfl, rfl, rfl, rfl, hmode, Controller.reset_txrq _, rfl⟩

end Sys2Proof.ResetProofs
end
